-- ==== Sys2Proof/Word.lean ====
section
/-! DEFINITION. The word types of the block: a transmitted byte (R5), a request or payload word (R90), a nibble
(00_scope.md section 5.1). -/

namespace Sys2Proof

/-- `Byte`: an 8-bit unsigned value (00_scope.md section 5.1; R5). -/
abbrev Byte := BitVec 8

/-- A word on `op_word` (R90, R101). -/
abbrev Word := BitVec 16

/-- `Nibble`: a 4-bit unsigned value (00_scope.md section 5.1). -/
abbrev Nibble := BitVec 4

end Sys2Proof
end

