-- ==== Sys2Proof/Config.lean ====
section
/-! DEFINITION. What an implementation fixes: the types of the build parameters of 00_scope.md R10, and the one free
value of the model. The parameters' default values stand in Machine/Parameters.lean. -/

namespace Sys2Proof

/-- The two units of duration (R7). -/
inductive TimeUnit where
  | short
  | long
deriving DecidableEq, Repr

/-- A duration is a pair (count, unit) (R7). -/
structure Duration where
  count : Nat
  unit : TimeUnit
deriving DecidableEq, Repr

/-- The two values of the cursor-advance direction: 0 Decrement, 1 Increment (R24, R94). -/
inductive CursorDir where
  | decrement
  | increment
deriving DecidableEq, Repr

/-- The stored entry-mode, register ENTRY (R24): bit 0 is AS, bit 1 is DIR. -/
structure EntryMode where
  autoscroll : Bool
  dir : CursorDir
deriving DecidableEq, Repr

/-- The stored display-mode, register DISPLAY (R25): bit 2 is D, bit 1 is C, bit 0 is B. -/
structure DisplayMode where
  display : Bool
  cursor : Bool
  blink : Bool
deriving DecidableEq, Repr

/-- EncEntry as plain data (R9): one byte for each value of ENTRY, the name giving AS and then DIR. -/
structure EntryEncoder where
  as0dir0 : Byte
  as0dir1 : Byte
  as1dir0 : Byte
  as1dir1 : Byte
deriving DecidableEq, Repr

/-- EncDisplay as plain data (R9): one byte for each value of DISPLAY, the name giving D, C and B. -/
structure DisplayEncoder where
  d0c0b0 : Byte
  d0c0b1 : Byte
  d0c1b0 : Byte
  d0c1b1 : Byte
  d1c0b0 : Byte
  d1c0b1 : Byte
  d1c1b0 : Byte
  d1c1b1 : Byte
deriving DecidableEq, Repr

/-- The parameters of R10, D14, D15, D19, D20 and D25. A step never changes them. -/
structure Params where
  /-- TICKS_PER_S: clock cycles in one short unit (R10, R259). -/
  ticksPerS : Nat
  /-- LONG_RATIO: short units in one long unit (R7). -/
  longRatio : Nat
  /-- T_PWR: the wait before the first init byte (R7; a parameter by D14 and U7). -/
  tPwr : Duration
  /-- T_FSET: the wait after the first init byte (R7; a parameter by D14 and U7). -/
  tFset : Duration
  /-- T_SETTLE: the wait after every other send (R7; a parameter by D14 and U7). -/
  tSettle : Duration
  /-- T_EN_HOLD: how long EN stays active in a pulse (R8). -/
  tEnHold : Duration
  /-- EncEntry (R9). -/
  encEntry : EntryEncoder
  /-- EncDisplay (R9). -/
  encDisplay : DisplayEncoder
  /-- ENTRY_RESET (R10, R55). -/
  entryReset : EntryMode
  /-- DISPLAY_RESET (R10, R55). -/
  displayReset : DisplayMode
deriving DecidableEq, Repr

/-- FREE VALUE (log 4). Which lines the failed pin operation number `n` changed: a 1 bit means the line took the new
level, a 0 bit that it kept the old one; bit 0 stands for the line of an operation on RS or EN. The spec does not say
which (R131, R132, R134; U2), so nothing constrains it. -/
opaque Config.partialDrive : Nat → BitVec 8

end Sys2Proof
end

