-- ==== Sys2Proof/Syntax.lean ====
section
/-! DEFINITION. The instructions: one constructor per row of spec/opcode_table.json. Requests and payload words are what
the host port carries (R90, R92); chip bytes are what Transmit carries (R130, R110 to R118). -/

namespace Sys2Proof

/-- Operand of the shifts: 0 Left, 1 Right (R94). -/
inductive ShiftDir where
  | left
  | right
deriving DecidableEq, Repr

/-- What a shift command byte moves: bit 3, 0 cursor, 1 display (R112). -/
inductive ShiftTarget where
  | cursor
  | display
deriving DecidableEq, Repr

/-- One constructor per row of spec/opcode_table.json. `ignored` holds the argument bits an operation does not use: no
effect depends on them (R95), but ARG latches them (R91). -/
inductive Instr where
  /-- INIT8 (R161). -/
  | init8 (ignored : Byte)
  /-- INIT4 (R162). -/
  | init4 (ignored : Byte)
  /-- CLEAR (R180). -/
  | clear (ignored : Byte)
  /-- HOME (R181). -/
  | home (ignored : Byte)
  /-- SET_CURSOR_POS (R182). -/
  | setCursorPos (position : Byte)
  /-- SHIFT_CURSOR (R183). -/
  | shiftCursor (ignored : BitVec 7) (dir : ShiftDir)
  /-- SHIFT_DISPLAY (R184). -/
  | shiftDisplay (ignored : BitVec 7) (dir : ShiftDir)
  /-- SET_DISPLAY_MODE (R201). -/
  | setDisplayMode (ignored : BitVec 5) (d : Bool) (c : Bool) (b : Bool)
  /-- SET_AUTOSCROLL (R202). -/
  | setAutoscroll (ignored : BitVec 7) (enabled : Bool)
  /-- SET_CURSOR_VISIBILITY (R203). -/
  | setCursorVisibility (ignored : BitVec 7) (visible : Bool)
  /-- SET_DISPLAY (R204). -/
  | setDisplay (ignored : BitVec 7) (on : Bool)
  /-- SET_CURSOR_BLINK (R205). -/
  | setCursorBlink (ignored : BitVec 7) (on : Bool)
  /-- SET_CURSOR_MODE (R206). -/
  | setCursorMode (ignored : BitVec 7) (dir : CursorDir)
  /-- WRITE_BYTE (R220). -/
  | writeByte (value : Byte)
  /-- WRITE_BYTES, the header of a burst of n payload words (R222). -/
  | writeBytes (n : Byte)
  /-- A payload word of a burst (R96). -/
  | payloadWord (ignored : Byte) (byte : Byte)
  /-- WRITE_CHAR, pseudo-operation: the word of WRITE_BYTE code(c) (R221). -/
  | writeChar (code : Byte)
  /-- WRITE_STR, pseudo-operation: the header of WRITE_BYTES over n character codes (R223). -/
  | writeStr (n : Byte)
  /-- Chip byte 0x01 (R110). -/
  | lcdClear
  /-- Chip byte 0x02 (R111). -/
  | lcdReturnHome
  /-- Chip byte 0b0001_SR00 (R112). -/
  | lcdShift (target : ShiftTarget) (dir : ShiftDir)
  /-- Chip byte 0b1aaa_aaaa (R113). -/
  | lcdSetDdramAddr (a : BitVec 7)
  /-- Chip byte 0b0000_01IS of the default entry-mode encoder (R114). -/
  | lcdEntryMode (dir : CursorDir) (scroll : Bool)
  /-- Chip byte 0b0000_1DCB of the default display-mode encoder (R114). -/
  | lcdDisplayMode (d : Bool) (c : Bool) (b : Bool)
  /-- Chip byte 0x30, ROM8[0] (R117). -/
  | lcdInit30
  /-- Chip byte 0x38, ROM8[1] (R117). -/
  | lcdInit38
  /-- Chip byte 0x33, ROM4[0] (R117). -/
  | lcdInit33
  /-- Chip byte 0x32, ROM4[1] (R117). -/
  | lcdInit32
  /-- Chip byte 0x28, ROM4[2] (R117). -/
  | lcdInit28
  /-- Chip byte 0x0E, ROM8[2] and ROM4[3] (R115). -/
  | lcdInit0E
  /-- Chip byte 0x07, ROM8[4] (R115). -/
  | lcdInit07
  /-- A data byte, sent with RS = 1 (R118). -/
  | lcdData (v : Byte)
deriving DecidableEq, Repr

end Sys2Proof
end

