-- ==== Sys2Proof/WellFormed.lean ====
section
/-! DEFINITION. Well-formed instructions: those that are the name of their own word. Every operand has the width of its
field by its type, so the one thing left to check is the rows of the opcode table that share a word with another row. -/

namespace Sys2Proof

/-- WRITE_CHAR and WRITE_STR have no opcode of their own: their words are WRITE_BYTE's and WRITE_BYTES's (R100). The
entry-mode byte with I = S = 1 is the word of LCD.INIT_0x07, and the display-mode byte with D = C = 1, B = 0 that of
LCD.INIT_0x0E (opcode_table.json; log 10). -/
def wellFormed : Instr → Bool
  | .writeChar _ => false
  | .writeStr _ => false
  | .lcdEntryMode dir scroll => !(decide (dir = .increment) && scroll)
  | .lcdDisplayMode d c b => !(d && c && !b)
  | .init8 _ | .init4 _ | .clear _ | .home _ | .setCursorPos _ | .shiftCursor _ _ | .shiftDisplay _ _ => true
  | .setDisplayMode _ _ _ _ | .setAutoscroll _ _ | .setCursorVisibility _ _ | .setDisplay _ _ => true
  | .setCursorBlink _ _ | .setCursorMode _ _ | .writeByte _ | .writeBytes _ | .payloadWord _ _ => true
  | .lcdClear | .lcdReturnHome | .lcdShift _ _ | .lcdSetDdramAddr _ => true
  | .lcdInit30 | .lcdInit38 | .lcdInit33 | .lcdInit32 | .lcdInit28 | .lcdInit0E | .lcdInit07 | .lcdData _ => true

end Sys2Proof
end

