-- ==== Sys2Proof/Decode.lean ====
section
/-! DEFINITION. The decoder, total on any word and rejecting by name, and after it the encoder, both from the encoding
tables of 30_encoding.md (R90, R92, R94, R110 to R118) and spec/opcode_table.json. -/

namespace Sys2Proof

/-- `op_word[15:8]` (R90). -/
def upperByte (w : Word) : Byte := w.extractLsb' 8 8

/-- `op_word[7:0]` (R90). -/
def lowerByte (w : Word) : Byte := w.extractLsb' 0 8

/-- `{hi, lo}` (R90). -/
def wordOf (hi lo : Byte) : Word := hi ++ lo

/-- `arg[0]` of a one-flag operation (R94). -/
def flagBit (arg : Byte) : Bool := arg.getLsbD 0

/-- `arg[7:1]`, the bits a one-flag operation ignores (R95). -/
def flagRest (arg : Byte) : BitVec 7 := arg.extractLsb' 1 7

/-- The argument byte with ignored bits `rest` and flag `b` (R94). -/
def flagArg (rest : BitVec 7) (b : Bool) : Byte := rest ++ BitVec.ofBool b

/-- The argument byte of SET_DISPLAY_MODE: arg[2] = D, arg[1] = C, arg[0] = B (R94). -/
def modeArg (rest : BitVec 5) (d c b : Bool) : Byte :=
  ((rest ++ BitVec.ofBool d) ++ BitVec.ofBool c) ++ BitVec.ofBool b

/-- Coding of a shift direction: 0 Left, 1 Right (R94). -/
def ShiftDir.bit : ShiftDir → Bool
  | .left => false
  | .right => true

/-- Coding of a shift direction, read (R94). -/
def ShiftDir.ofBit : Bool → ShiftDir
  | false => .left
  | true => .right

/-- Coding of the shift target, bit 3 of the command byte: 0 cursor, 1 display (R112). -/
def ShiftTarget.bit : ShiftTarget → Bool
  | .cursor => false
  | .display => true

/-- Coding of the shift target, read (R112). -/
def ShiftTarget.ofBit : Bool → ShiftTarget
  | false => .cursor
  | true => .display

/-- Coding of the cursor-advance direction: 0 Decrement, 1 Increment (R94). -/
def CursorDir.bit : CursorDir → Bool
  | .decrement => false
  | .increment => true

/-- Coding of the cursor-advance direction, read (R94). -/
def CursorDir.ofBit : Bool → CursorDir
  | false => .decrement
  | true => .increment

/-- Opcode of INIT8 (R92). -/
def opInit8 : Byte := 0x01#8
/-- Opcode of INIT4 (R92). -/
def opInit4 : Byte := 0x02#8
/-- Opcode of CLEAR (R92). -/
def opClear : Byte := 0x10#8
/-- Opcode of HOME (R92). -/
def opHome : Byte := 0x11#8
/-- Opcode of SET_CURSOR_POS (R92). -/
def opSetCursorPos : Byte := 0x12#8
/-- Opcode of SHIFT_CURSOR (R92). -/
def opShiftCursor : Byte := 0x13#8
/-- Opcode of SHIFT_DISPLAY (R92). -/
def opShiftDisplay : Byte := 0x14#8
/-- Opcode of SET_DISPLAY_MODE (R92). -/
def opSetDisplayMode : Byte := 0x20#8
/-- Opcode of SET_AUTOSCROLL (R92). -/
def opSetAutoscroll : Byte := 0x21#8
/-- Opcode of SET_CURSOR_VISIBILITY (R92). -/
def opSetCursorVisibility : Byte := 0x22#8
/-- Opcode of SET_DISPLAY (R92). -/
def opSetDisplay : Byte := 0x23#8
/-- Opcode of SET_CURSOR_BLINK (R92). -/
def opSetCursorBlink : Byte := 0x24#8
/-- Opcode of SET_CURSOR_MODE (R92). -/
def opSetCursorMode : Byte := 0x25#8
/-- Opcode of WRITE_BYTE (R92). -/
def opWriteByte : Byte := 0x30#8
/-- Opcode of WRITE_BYTES (R92). -/
def opWriteBytes : Byte := 0x31#8

/-- Why a word is no instruction. -/
inductive DecodeError where
  /-- A request word whose opcode R92 does not list (R98): never accepted. -/
  | reservedOpcode (opcode : Byte)
  /-- A byte sent with flag 0 that is no command byte of the opcode table (only a non-default encoder sends one). -/
  | noCommandByte (b : Byte)
deriving DecidableEq, Repr

/-- A word with the place it is read from: the request port in IDLE, the request port inside a burst (R91), or the
operands TXF, TXB of the Transmit that begins (R29, R130). -/
inductive PortWord where
  | request (w : Word)
  | payload (w : Word)
  | chip (rs : Bool) (b : Byte)
deriving DecidableEq, Repr

/-- A request word (R90, R92, R94). -/
def decodeRequest (w : Word) : Except DecodeError Instr :=
  let op := upperByte w
  let a := lowerByte w
  if op = opInit8 then .ok (.init8 a)
  else if op = opInit4 then .ok (.init4 a)
  else if op = opClear then .ok (.clear a)
  else if op = opHome then .ok (.home a)
  else if op = opSetCursorPos then .ok (.setCursorPos a)
  else if op = opShiftCursor then .ok (.shiftCursor (flagRest a) (.ofBit (flagBit a)))
  else if op = opShiftDisplay then .ok (.shiftDisplay (flagRest a) (.ofBit (flagBit a)))
  else if op = opSetDisplayMode then
    .ok (.setDisplayMode (a.extractLsb' 3 5) (a.getLsbD 2) (a.getLsbD 1) (a.getLsbD 0))
  else if op = opSetAutoscroll then .ok (.setAutoscroll (flagRest a) (flagBit a))
  else if op = opSetCursorVisibility then .ok (.setCursorVisibility (flagRest a) (flagBit a))
  else if op = opSetDisplay then .ok (.setDisplay (flagRest a) (flagBit a))
  else if op = opSetCursorBlink then .ok (.setCursorBlink (flagRest a) (flagBit a))
  else if op = opSetCursorMode then .ok (.setCursorMode (flagRest a) (.ofBit (flagBit a)))
  else if op = opWriteByte then .ok (.writeByte a)
  else if op = opWriteBytes then .ok (.writeBytes a)
  else .error (.reservedOpcode op)

/-- A payload word: any upper byte, the lower byte is the data byte (R90). -/
def decodePayload (w : Word) : Instr := .payloadWord (upperByte w) (lowerByte w)

/-- A byte sent with flag 0 (R110 to R117). The full-byte rows come first, so that a byte two rows share is read under
its literal's name (log 10). -/
def decodeCommand (b : Byte) : Except DecodeError Instr :=
  if b = 0x01#8 then .ok .lcdClear
  else if b = 0x02#8 then .ok .lcdReturnHome
  else if b = 0x30#8 then .ok .lcdInit30
  else if b = 0x38#8 then .ok .lcdInit38
  else if b = 0x33#8 then .ok .lcdInit33
  else if b = 0x32#8 then .ok .lcdInit32
  else if b = 0x28#8 then .ok .lcdInit28
  else if b = 0x0E#8 then .ok .lcdInit0E
  else if b = 0x07#8 then .ok .lcdInit07
  else if b &&& 0x80#8 = 0x80#8 then .ok (.lcdSetDdramAddr (b.extractLsb' 0 7))
  else if b &&& 0xF3#8 = 0x10#8 then .ok (.lcdShift (.ofBit (b.getLsbD 3)) (.ofBit (b.getLsbD 2)))
  else if b &&& 0xF8#8 = 0x08#8 then .ok (.lcdDisplayMode (b.getLsbD 2) (b.getLsbD 1) (b.getLsbD 0))
  else if b &&& 0xFC#8 = 0x04#8 then .ok (.lcdEntryMode (.ofBit (b.getLsbD 1)) (b.getLsbD 0))
  else .error (.noCommandByte b)

/-- The decoder. -/
def decode : PortWord → Except DecodeError Instr
  | .request w => decodeRequest w
  | .payload w => .ok (decodePayload w)
  | .chip false b => decodeCommand b
  | .chip true b => .ok (.lcdData b)

/-- The shift command byte 0b0001_SR00 (R112). -/
def shiftByte (target : ShiftTarget) (dir : ShiftDir) : Byte :=
  ((0b0001#4 ++ BitVec.ofBool target.bit) ++ BitVec.ofBool dir.bit) ++ 0b00#2

/-- The set-DDRAM-address command byte 0b1aaa_aaaa (R113). -/
def ddramByte (a : BitVec 7) : Byte := 0b1#1 ++ a

/-- The entry-mode byte of the default encoder, 0b0000_01IS (R9, R114). -/
def entryByte (dir : CursorDir) (scroll : Bool) : Byte :=
  (0b000001#6 ++ BitVec.ofBool dir.bit) ++ BitVec.ofBool scroll

/-- The display-mode byte of the default encoder, 0b0000_1DCB (R9, R114). -/
def displayByte (d c b : Bool) : Byte :=
  ((0b00001#5 ++ BitVec.ofBool d) ++ BitVec.ofBool c) ++ BitVec.ofBool b

/-- The encoder: the word of an instruction, with the place it is read from. -/
def encode : Instr → PortWord
  | .init8 a => .request (wordOf opInit8 a)
  | .init4 a => .request (wordOf opInit4 a)
  | .clear a => .request (wordOf opClear a)
  | .home a => .request (wordOf opHome a)
  | .setCursorPos p => .request (wordOf opSetCursorPos p)
  | .shiftCursor r dir => .request (wordOf opShiftCursor (flagArg r dir.bit))
  | .shiftDisplay r dir => .request (wordOf opShiftDisplay (flagArg r dir.bit))
  | .setDisplayMode r d c b => .request (wordOf opSetDisplayMode (modeArg r d c b))
  | .setAutoscroll r e => .request (wordOf opSetAutoscroll (flagArg r e))
  | .setCursorVisibility r v => .request (wordOf opSetCursorVisibility (flagArg r v))
  | .setDisplay r o => .request (wordOf opSetDisplay (flagArg r o))
  | .setCursorBlink r o => .request (wordOf opSetCursorBlink (flagArg r o))
  | .setCursorMode r dir => .request (wordOf opSetCursorMode (flagArg r dir.bit))
  | .writeByte v => .request (wordOf opWriteByte v)
  | .writeBytes n => .request (wordOf opWriteBytes n)
  | .payloadWord i b => .payload (wordOf i b)
  | .writeChar c => .request (wordOf opWriteByte c)
  | .writeStr n => .request (wordOf opWriteBytes n)
  | .lcdClear => .chip false 0x01#8
  | .lcdReturnHome => .chip false 0x02#8
  | .lcdShift t dir => .chip false (shiftByte t dir)
  | .lcdSetDdramAddr a => .chip false (ddramByte a)
  | .lcdEntryMode dir s => .chip false (entryByte dir s)
  | .lcdDisplayMode d c b => .chip false (displayByte d c b)
  | .lcdInit30 => .chip false 0x30#8
  | .lcdInit38 => .chip false 0x38#8
  | .lcdInit33 => .chip false 0x33#8
  | .lcdInit32 => .chip false 0x32#8
  | .lcdInit28 => .chip false 0x28#8
  | .lcdInit0E => .chip false 0x0E#8
  | .lcdInit07 => .chip false 0x07#8
  | .lcdData v => .chip true v

/-- The instruction a shared word is read as: a pseudo-operation is its core operation (R100), a mode byte equal to an
init literal is that literal (log 10). -/
def coreName : Instr → Instr
  | .writeChar c => .writeByte c
  | .writeStr n => .writeBytes n
  | .lcdEntryMode .increment true => .lcdInit07
  | .lcdDisplayMode true true false => .lcdInit0E
  | i => i

/-- Where a bare table word of 16 bits is read: at the request port in IDLE if its opcode is listed, otherwise as a
payload word (log 12). -/
def tablePlace16 (w : Word) : PortWord :=
  match decodeRequest w with
  | .ok _ => .request w
  | .error _ => .payload w

/-- Where a bare table word of 8 bits is read: as a byte with flag 0 if it is a command byte of the table, otherwise as a
data byte with flag 1 (log 10). -/
def tablePlace8 (b : Byte) : PortWord :=
  match decodeCommand b with
  | .ok _ => .chip false b
  | .error _ => .chip true b

/-- The place of a bare table word (the opcode table has rows of 16 bits and of 8 bits and no others). -/
def tablePlace (nbits w : Nat) : Option PortWord :=
  if nbits = 16 then some (tablePlace16 (BitVec.ofNat 16 w))
  else if nbits = 8 then some (tablePlace8 (BitVec.ofNat 8 w))
  else none

/-- The instruction the decoder reads from the bits `w` of a row of `nbits` bits. -/
def decodeTableWord (nbits w : Nat) : Option Instr :=
  match tablePlace nbits w with
  | none => none
  | some p =>
    match decode p with
    | .ok i => some i
    | .error _ => none

end Sys2Proof
end

