-- ==== Sys2Proof/Machine/Parameters.lean ====
section
/-! DEFINITION. The default parameters of 00_scope.md R7 to R10. -/

namespace Sys2Proof.Machine

/-- The default of T_PWR, (15, L) (R7, R10, D14). -/
def defaultTPwr : Duration := ⟨15, .long⟩

/-- The default of T_FSET, (5, L) (R7, R10, D14). -/
def defaultTFset : Duration := ⟨5, .long⟩

/-- The default of T_SETTLE, (100, S) (R7, R10, D14). -/
def defaultTSettle : Duration := ⟨100, .short⟩

/-- The default EncEntry, `0b0000_0100 | (DIR << 1) | AS` (R9; PRESUMED, log 3). -/
def defaultEncEntry : EntryEncoder where
  as0dir0 := entryByte .decrement false
  as0dir1 := entryByte .increment false
  as1dir0 := entryByte .decrement true
  as1dir1 := entryByte .increment true

/-- The default EncDisplay, `0b0000_1000 | (D << 2) | (C << 1) | B` (R9; PRESUMED, log 3). -/
def defaultEncDisplay : DisplayEncoder where
  d0c0b0 := displayByte false false false
  d0c0b1 := displayByte false false true
  d0c1b0 := displayByte false true false
  d0c1b1 := displayByte false true true
  d1c0b0 := displayByte true false false
  d1c0b1 := displayByte true false true
  d1c1b0 := displayByte true true false
  d1c1b1 := displayByte true true true

/-- The defaults of the table of R10 (log 3). -/
def defaultParams : Params where
  ticksPerS := 1
  longRatio := 1000
  tPwr := defaultTPwr
  tFset := defaultTFset
  tSettle := defaultTSettle
  tEnHold := ⟨1, .short⟩
  encEntry := defaultEncEntry
  encDisplay := defaultEncDisplay
  entryReset := ⟨false, .increment⟩
  displayReset := ⟨true, true, false⟩

end Sys2Proof.Machine
end

