-- ==== Sys2Proof/Machine/State.lean ====
section
/-! DEFINITION. The state of the block as plain data (10_state.md R20 to R55), with the model's own fields: parameters,
inputs to come, trace, free-value counter. Reset, and the reasons a step can stop. -/

namespace Sys2Proof.Machine

/-- PHASE, codes 0 to 3 in this order (R21). -/
inductive Phase where
  | poweringUp
  | initialising
  | ready
  | failed
deriving DecidableEq, Repr

/-- BUSW: 0 the 8-bit bus, 1 the 4-bit bus (R23). -/
inductive BusWidth where
  | eight
  | four
deriving DecidableEq, Repr

/-- USTATE, codes 0 to 10 in this order (R27). -/
inductive UState where
  | idle
  | pre
  | rs
  | data
  | enHi
  | hold
  | enLo
  | post
  | payload
  | drain
  | rsp
deriving DecidableEq, Repr

/-- Response codes: 0 OK, 1 PIN_FAIL (R97). -/
inductive RspCode where
  | ok
  | pinFail
deriving DecidableEq, Repr

/-- The answer of the pin capability to a pin operation (R53, R262). -/
inductive Answer where
  | ok
  | fail
deriving DecidableEq, Repr

/-- A pin operation (00_scope.md section 5.3): PinSet(RS, l), DataSet(mask, v), PinSet(EN, l). -/
inductive PinOp where
  | rs (level : Bool)
  | data (mask : Byte) (v : Byte)
  | en (level : Bool)
deriving DecidableEq, Repr

/-- Which of the four durations a delay waits: T_PWR, T_FSET, T_SETTLE, T_EN_HOLD. -/
inductive DelayKind where
  | pwr
  | fset
  | settle
  | hold
deriving DecidableEq, Repr

/-- The events of the trace (00_scope.md section 5.4). -/
inductive Event where
  /-- `REQ <mnemonic> <args>`: the opcode names the operation (R92), the operand is the argument bits it uses (log 18). -/
  | req (opcode : Byte) (operand : Byte)
  /-- `REQ PAY 0xhh`. -/
  | pay (b : Byte)
  /-- `REQ PAY 0xhh (discarded)`. -/
  | payDiscarded (b : Byte)
  /-- `RS=l`, `D=0xhh` or `D74=0xh`, `EN=l`; with `!` when answered fail. -/
  | pin (op : PinOp) (answer : Answer)
  /-- `W(15L)`, `W(5L)`, `W(100S)`, `W(hold)`. -/
  | wait (d : DelayKind)
  /-- `RSP OK`, `RSP PIN_FAIL`. -/
  | rsp (code : RspCode)
deriving DecidableEq, Repr

/-- The ten line registers (R40, R41). -/
structure Lines where
  rs : Bool
  en : Bool
  d : Byte
deriving DecidableEq, Repr

/-- The input ports in one clock cycle (R101). -/
structure PortIn where
  rst : Bool
  opValid : Bool
  opWord : Word
  rspReady : Bool
  pinAck : Bool
  pinErr : Bool
deriving DecidableEq, Repr

/-- All the state of the block (R20), the two ghosts (R50), and the model's own fields. -/
structure State where
  /-- PHASE (R21). -/
  phase : Phase
  /-- BUSW (R23). -/
  busw : BusWidth
  /-- ENTRY (R24). -/
  entry : EntryMode
  /-- DISPLAY (R25). -/
  display : DisplayMode
  /-- SEQ_PC (R26). -/
  seqPc : BitVec 3
  /-- USTATE (R27). -/
  ustate : UState
  /-- NIB: false the upper nibble, true the lower (R28). -/
  nib : Bool
  /-- TXB (R29). -/
  txb : Byte
  /-- TXF (R29). -/
  txf : Bool
  /-- OPC (R30). -/
  opc : Byte
  /-- ARG (R30). -/
  arg : Byte
  /-- BCNT (R31). -/
  bcnt : Byte
  /-- BFAIL (R31). -/
  bfail : Bool
  /-- TMR, of the width `tmrWidth cfg` (R32): a natural number that the invariant keeps below `2 ^ tmrWidth cfg` (log 15). -/
  tmr : Nat
  /-- RSPC (R35). -/
  rspc : RspCode
  /-- FLT (R33). -/
  flt : Bool
  /-- LINES (R40). -/
  lines : Lines
  /-- Ghost CHIP_ENTRY (R50; log 8). -/
  chipEntry : Option Byte
  /-- Ghost CHIP_DISPLAY (R50; log 8). -/
  chipDisplay : Option Byte
  /-- The model's own: the build's parameters (R10; log 3). -/
  cfg : Params
  /-- The model's own: the input ports of the cycles to come, the next one first (log 2). -/
  inputs : List PortIn
  /-- The model's own: the events so far, the first one first (log 16). -/
  trace : List Event
  /-- The model's own: the number of the next free value (log 4). -/
  freeCtr : Nat
deriving DecidableEq, Repr

/-- The reset values of R55 for a build with parameters `c`; nothing to come on the inputs, no event yet. -/
def State.ofParams (c : Params) : State where
  phase := .poweringUp
  busw := .eight
  entry := c.entryReset
  display := c.displayReset
  seqPc := 0#3
  ustate := .idle
  nib := false
  txb := 0x00#8
  txf := false
  opc := 0x00#8
  arg := 0x00#8
  bcnt := 0x00#8
  bfail := false
  tmr := 0
  rspc := .ok
  flt := false
  lines := ⟨false, false, 0x00#8⟩
  chipEntry := none
  chipDisplay := none
  cfg := c
  inputs := []
  trace := []
  freeCtr := 0

/-- The machine right after reset (R55, R280), with the default parameters of R10 (log 3). -/
def State.reset : State := State.ofParams defaultParams

/-- Why a step can stop with a fault. Both guard register values that no run reaches; the spec gives no effect there
(log 14). -/
inductive Fault where
  /-- Raised by the init sequencer when SEQ_PC + 1 is no index of the init ROM and not its length (R115, R116, R163). Safe:
  the model stops where the spec says nothing. -/
  | romIndex
  /-- Raised by payload_word in PAYLOAD or DRAIN with BCNT = 0: BCNT - 1 does not exist, since no rule lets it wrap
  (00_scope.md section 5.1). Safe: the model stops where the spec says nothing. -/
  | burstCount
deriving DecidableEq, Repr

/-- Why a step can be refused. -/
inductive Refusal where
  /-- Raised by exec for an instruction that has no meaning yet. Safe. No arm uses it: every instruction has its meaning. -/
  | notModelled (mnemonic : String)
deriving DecidableEq, Repr

end Sys2Proof.Machine
end

