-- ==== Sys2Proof/Machine/Operands.lean ====
section
/-! DEFINITION. Operand forms: the command bytes the operations compute (30_encoding.md R110 to R114), the encoders
(R9), the multiplexer BusData (R137), the init ROMs (R115, R116), which opcodes are admissible (R93), durations in ticks
(R259). -/

namespace Sys2Proof.Machine

/-- A flag as the argument byte shown in the trace (log 18). -/
def flagByte (b : Bool) : Byte := flagArg 0#7 b

/-- EncEntry (R9). -/
def encEntry (c : Params) (e : EntryMode) : Byte :=
  match e.autoscroll, e.dir with
  | false, .decrement => c.encEntry.as0dir0
  | false, .increment => c.encEntry.as0dir1
  | true, .decrement => c.encEntry.as1dir0
  | true, .increment => c.encEntry.as1dir1

/-- EncDisplay (R9). -/
def encDisplay (c : Params) (m : DisplayMode) : Byte :=
  match m.display, m.cursor, m.blink with
  | false, false, false => c.encDisplay.d0c0b0
  | false, false, true => c.encDisplay.d0c0b1
  | false, true, false => c.encDisplay.d0c1b0
  | false, true, true => c.encDisplay.d0c1b1
  | true, false, false => c.encDisplay.d1c0b0
  | true, false, true => c.encDisplay.d1c0b1
  | true, true, false => c.encDisplay.d1c1b0
  | true, true, true => c.encDisplay.d1c1b1

/-- The byte of CLEAR (R110, R180). -/
def cmdClear : Byte := 0b0000_0001#8

/-- The byte of HOME (R111, R181). -/
def cmdHome : Byte := 0b0000_0010#8

/-- `0b1000_0000 | (position & 0b0111_1111)` (R113, R182). -/
def cmdSetCursorPos (position : Byte) : Byte := 0b1000_0000#8 ||| (position &&& 0b0111_1111#8)

/-- `direction << 2` on a byte (R183, R184). -/
def dirShifted (dir : ShiftDir) : Byte := flagByte dir.bit <<< 2

/-- `0b0001_0000 | (direction << 2)` (R112, R183). -/
def cmdShiftCursor (dir : ShiftDir) : Byte := 0b0001_0000#8 ||| dirShifted dir

/-- `0b0001_1000 | (direction << 2)` (R112, R184). -/
def cmdShiftDisplay (dir : ShiftDir) : Byte := 0b0001_1000#8 ||| dirShifted dir

/-- The multiplexer BusData: which data lines are driven and with what (R137). -/
def busData (w : BusWidth) (nib : Bool) (b : Byte) : Byte × Byte :=
  match w, nib with
  | .eight, _ => (0xFF#8, b)
  | .four, false => (0xF0#8, b.extractLsb' 4 4 ++ 0b0000#4)
  | .four, true => (0xF0#8, b.extractLsb' 0 4 ++ 0b0000#4)

/-- ROM8 (R115). -/
def rom8 : List Byte := [0x30#8, 0x38#8, 0x0E#8, 0x01#8, 0x07#8]

/-- ROM4 with EncEntry(ENTRY) at index 5 (R116). -/
def rom4 (entryModeByte : Byte) : List Byte :=
  [0x33#8, 0x32#8, 0x28#8, 0x0E#8, 0x01#8, entryModeByte, 0x80#8]

/-- The init ROM the bus width selects (R23, R140). -/
def romOf (c : Params) (e : EntryMode) : BusWidth → List Byte
  | .eight => rom8
  | .four => rom4 (encEntry c e)

/-- `RomLen(BUSW)`: 5 for the 8-bit bus, 7 for the 4-bit bus (R140). -/
def romLen : BusWidth → Nat
  | .eight => 5
  | .four => 7

/-- `Rom(BUSW, i)`, where there is such an entry (R140). -/
def romAt (c : Params) (e : EntryMode) (w : BusWidth) (i : Nat) : Option Byte := (romOf c e w)[i]?

/-- Which opcodes are admissible in a phase (R93). -/
def admissible (p : Phase) (opcode : Byte) : Bool :=
  match p with
  | .poweringUp => [opInit8, opInit4].contains opcode
  | .initialising => false
  | .ready =>
    [opClear, opHome, opSetCursorPos, opShiftCursor, opShiftDisplay, opSetDisplayMode, opSetAutoscroll,
      opSetCursorVisibility, opSetDisplay, opSetCursorBlink, opSetCursorMode, opWriteByte, opWriteBytes].contains opcode
  | .failed => false

/-- `ticks((count, unit))` (R259). -/
def ticks (c : Params) (d : Duration) : Nat :=
  match d.unit with
  | .short => d.count * c.ticksPerS
  | .long => d.count * c.longRatio * c.ticksPerS

/-- The duration a delay waits, a parameter of the build (R7, R8, R10). -/
def durationOf (c : Params) : DelayKind → Duration
  | .pwr => c.tPwr
  | .fset => c.tFset
  | .settle => c.tSettle
  | .hold => c.tEnHold

/-- The clock cycles a delay lasts (R258, R259). -/
def ticksOf (c : Params) (k : DelayKind) : Nat := ticks c (durationOf c k)

/-- The width of TMR: the smallest that holds the ticks of T_PWR, which are `15 * LONG_RATIO * TICKS_PER_S` when T_PWR is
(15, L) (R32; that the 15 of R32 follows the parameter T_PWR is DEDUCED, log 15). -/
def tmrWidth (c : Params) : Nat := (ticksOf c .pwr).log2 + 1

end Sys2Proof.Machine
end

