-- ==== Sys2Proof/Machine/Flags.lean ====
section
/-! DEFINITION. The status of the block: status outputs (10_state.md R34), the register codes of PHASE, USTATE, BUSW,
RSPC, ENTRY and DISPLAY (R21 to R27, R97), and the names of the init states (41_init_sequences.md R165). -/

namespace Sys2Proof.Machine

/-- `READY_O = (PHASE = READY)` (R34). -/
def readyO (s : State) : Bool := decide (s.phase = .ready)

/-- `BUSY_O = (USTATE != IDLE)` (R34). -/
def busyO (s : State) : Bool := !decide (s.ustate = .idle)

/-- The value of PHASE as its two bits (R21). -/
def phaseCode : Phase → BitVec 2
  | .poweringUp => 0#2
  | .initialising => 1#2
  | .ready => 2#2
  | .failed => 3#2

/-- The value of BUSW as its bit (R23). -/
def buswCode : BusWidth → BitVec 1
  | .eight => 0#1
  | .four => 1#1

/-- The value of USTATE as its four bits (R27). -/
def ustateCode : UState → BitVec 4
  | .idle => 0#4
  | .pre => 1#4
  | .rs => 2#4
  | .data => 3#4
  | .enHi => 4#4
  | .hold => 5#4
  | .enLo => 6#4
  | .post => 7#4
  | .payload => 8#4
  | .drain => 9#4
  | .rsp => 10#4

/-- `rsp_code` (R97). -/
def rspBit : RspCode → Bool
  | .ok => false
  | .pinFail => true

/-- The value of ENTRY as its two bits: DIR above AS (R24). -/
def entryCode (e : EntryMode) : BitVec 2 := BitVec.ofBool e.dir.bit ++ BitVec.ofBool e.autoscroll

/-- The value of DISPLAY as its three bits: D, C, B (R25). -/
def displayCode (m : DisplayMode) : BitVec 3 :=
  (BitVec.ofBool m.display ++ BitVec.ofBool m.cursor) ++ BitVec.ofBool m.blink

/-- The names of the init states (R165). -/
inductive InitName where
  | poweringUp
  | modeSwitch
  | functionSet
  | displayConfig
  | cleared
  | homed
  | entrySet
  | ready
deriving DecidableEq, Repr

/-- The name of the byte at an init position (R165). -/
def initNameAt (w : BusWidth) (i : Nat) : Option InitName :=
  match w, i with
  | .eight, 0 => some .functionSet
  | .eight, 1 => some .functionSet
  | .eight, 2 => some .displayConfig
  | .eight, 3 => some .cleared
  | .eight, 4 => some .entrySet
  | .four, 0 => some .modeSwitch
  | .four, 1 => some .modeSwitch
  | .four, 2 => some .functionSet
  | .four, 3 => some .displayConfig
  | .four, 4 => some .cleared
  | .four, 5 => some .entrySet
  | .four, 6 => some .homed
  | _, _ => none

/-- The document's state name as a function of PHASE, BUSW, SEQ_PC and USTATE (R165); FAILED bears none. -/
def initName (s : State) : Option InitName :=
  match s.phase with
  | .poweringUp => some .poweringUp
  | .initialising => if s.ustate = .pre then some .poweringUp else initNameAt s.busw s.seqPc.toNat
  | .ready => some .ready
  | .failed => none

end Sys2Proof.Machine
end

