-- ==== Sys2Proof/Machine/Ops.lean ====
section
/-! DEFINITION. The named operations on the state that every meaning is built from: the trace, latching a request,
beginning a send, delays, driving lines, the exception PinFailure (60_exceptions.md R243) and its end (R247), reset
(70_reset_and_hazards.md R280). -/

namespace Sys2Proof.Machine

/-- The outcome of a step of this machine. -/
abbrev Result := Host.Outcome State Fault Refusal

/-- All inputs inactive: nobody does anything at the ports (log 2). -/
def silentIn : PortIn := ⟨false, false, 0#16, false, false, false⟩

/-- The input ports in the present cycle; after the last listed cycle they stay inactive (log 2). -/
def State.now (s : State) : PortIn := s.inputs.headD silentIn

/-- Append one event to the trace (00_scope.md section 5.3). -/
def State.record (e : Event) (s : State) : State := { s with trace := s.trace ++ [e] }

/-- Latch an accepted request: `OPC <- op_word[15:8]`, `ARG <- op_word[7:0]`, the event REQ (R91). -/
def State.latch (opcode argument operand : Byte) (s : State) : State :=
  { s with opc := opcode, arg := argument, trace := s.trace ++ [.req opcode operand] }

/-- A send begins: `TXB <- b; TXF <- f; USTATE <- RS` (R29, R140), and `NIB <- 0` as USTATE enters RS (R28; log 6). -/
def State.beginSend (b : Byte) (f : Bool) (s : State) : State :=
  { s with txb := b, txf := f, nib := false, ustate := .rs }

/-- Enter a delay state: `TMR <- ticks(d)` on entry (R258). -/
def State.enterDelay (u : UState) (k : DelayKind) (s : State) : State :=
  { s with ustate := u, tmr := ticksOf s.cfg k }

/-- Present a response: RSPC and USTATE = RSP (R35, R140). -/
def State.respond (c : RspCode) (s : State) : State := { s with rspc := c, ustate := .rsp }

/-- `PostDelay()`: T_FSET after the first init byte, T_SETTLE after every other send (R140, R166). -/
def postDelay (s : State) : DelayKind :=
  if s.phase = .initialising ∧ s.seqPc = 0#3 then .fset else .settle

/-- The bits of `old` outside `mask`, those of `new` inside. -/
def mergeBits (mask old new : Byte) : Byte := (old &&& ~~~mask) ||| (new &&& mask)

/-- A pin operation answered ok: the lines take the requested levels (R131, R132, R134). -/
def driveLines (op : PinOp) (l : Lines) : Lines :=
  match op with
  | .rs level => { l with rs := level }
  | .data mask v => { l with d := mergeBits mask l.d v }
  | .en level => { l with en := level }

/-- A pin operation answered fail: each line it touches holds its old or its new level, as `r` says for that line (R131,
R132, R134, R139; U2). -/
def partialDriveLines (op : PinOp) (r : Byte) (l : Lines) : Lines :=
  match op with
  | .rs level => { l with rs := if r.getLsbD 0 then level else l.rs }
  | .data mask v => { l with d := mergeBits (mask &&& r) l.d v }
  | .en level => { l with en := if r.getLsbD 0 then level else l.en }

/-- `Fail()`: FLT and RSPC are set, a failing initialisation goes to FAILED, a burst with payload words to come drains,
anything else responds (R140, R243). BFAIL is set where payload words are to be discarded (R31, R140, R224, D5; log 7). -/
def State.failRegisters (s : State) : State :=
  { s with
    flt := true
    rspc := .pinFail
    phase := if s.phase = .initialising then .failed else s.phase
    bfail := if s.opc = opWriteBytes ∧ s.bcnt ≠ 0#8 then true else s.bfail
    ustate := if s.opc = opWriteBytes ∧ s.bcnt ≠ 0#8 then .drain else .rsp }

/-- TAKING THE EXCEPTION PinFailure (R243): the failed operation's lines are left old or new, chosen by the next free
value (log 4); its event is recorded with `!`; then `Fail()`. -/
def State.pinFailure (op : PinOp) (s : State) : State :=
  State.failRegisters
    { s with
      lines := partialDriveLines op (Config.partialDrive s.freeCtr) s.lines
      freeCtr := s.freeCtr + 1
      trace := s.trace ++ [.pin op .fail] }

/-- THE END OF AN OPERATION, failed or not, which is what stands for a return from the exception (R247): the response is
taken, `BFAIL <- 0`, USTATE goes to IDLE (R97, R140). -/
def State.takeResponse (s : State) : State :=
  { s with bfail := false, ustate := .idle, trace := s.trace ++ [.rsp s.rspc] }

/-- A pin operation answered ok (R131, R132, R134): lines and event. -/
def State.pinOk (op : PinOp) (s : State) : State :=
  { s with lines := driveLines op s.lines, trace := s.trace ++ [.pin op .ok] }

/-- One cycle of a pending pin operation (R144): without pin_ack nothing changes; with pin_ack, pin_err gives the answer. -/
def pinCycle (op : PinOp) (onOk : State → State) (s : State) : State :=
  if s.now.pinAck then
    if s.now.pinErr then s.pinFailure op else onOk (s.pinOk op)
  else s

/-- One cycle of a delay (R258): the delay event in the first cycle (log 5), TMR down by 1, and `whenOver` in the cycle TMR
reaches 0. -/
def delayCycle (k : DelayKind) (whenOver : State → Result) (s : State) : Result :=
  let s1 := if s.tmr = ticksOf s.cfg k then s.record (.wait k) else s
  if s.tmr ≤ 1 then whenOver { s1 with tmr := 0 } else .next { s1 with tmr := s.tmr - 1 }

/-- The RS step, with which a Transmit begins: PinSet(RS, TXF), then `NIB <- 0` and DATA (R131, R140; log 6). -/
def rsCycle (s : State) : State :=
  pinCycle (.rs s.txf) (fun t => { t with nib := false, ustate := .data }) s

/-- Transmit(b, f) begins (R130): the operands stand in TXB and TXF, and the RS step runs. A byte is read as an
instruction only in USTATE RS; anywhere else it has no effect (log 9). -/
def transmit (b : Byte) (f : Bool) (s : State) : Result :=
  if s.ustate = .rs then .next (rsCycle { s with txb := b, txf := f }) else .next s

/-- A request word at the port (R91): accepted in IDLE when admissible in PHASE; otherwise it has no effect of any kind
(R250; log 13). -/
def request (opcode argument operand : Byte) (start : State → State) (s : State) : Result :=
  if s.ustate = .idle ∧ admissible s.phase opcode = true then .next (start (s.latch opcode argument operand)) else .next s

/-- The step shared by the operations that send one byte computed from the request (R185, R220). -/
def singleSend (opcode argument operand b : Byte) (f : Bool) (s : State) : Result :=
  request opcode argument operand (fun t => t.beginSend b f) s

/-- A mutator of ENTRY: update, encode the whole register, send (R200). -/
def mutateEntry (opcode argument operand : Byte) (update : EntryMode → EntryMode) (s : State) : Result :=
  request opcode argument operand
    (fun t => State.beginSend (encEntry t.cfg (update t.entry)) false { t with entry := update t.entry }) s

/-- A mutator of DISPLAY: update, encode the whole register, send (R200). -/
def mutateDisplay (opcode argument operand : Byte) (update : DisplayMode → DisplayMode) (s : State) : Result :=
  request opcode argument operand
    (fun t => State.beginSend (encDisplay t.cfg (update t.display)) false { t with display := update t.display }) s

/-- An init operation: `BUSW <- w; PHASE <- INITIALISING; SEQ_PC <- 0; Delay(T_PWR)` (R161, R162). -/
def startInit (opcode argument : Byte) (w : BusWidth) (s : State) : Result :=
  request opcode argument 0#8
    (fun t => State.enterDelay .pre .pwr { t with busw := w, phase := .initialising, seqPc := 0#3 }) s

/-- The header of a burst: `BCNT <- n`, then PAYLOAD, or the response at once for n = 0 (R96, R222). -/
def startBurst (opcode n : Byte) (s : State) : Result :=
  request opcode n n
    (fun t => if n = 0#8 then State.respond .ok { t with bcnt := n } else { t with bcnt := n, ustate := .payload }) s

/-- The registers after a cycle with rst = 1 (R280, R55). Parameters, inputs, trace and the free-value counter are the
model's own and stay (log 16); the ghosts have no value (R55, U3). -/
def State.afterReset (s : State) : State :=
  { State.ofParams s.cfg with inputs := s.inputs, trace := s.trace, freeCtr := s.freeCtr }

/-- The cycle is over: the next cycle's inputs come up (log 2). -/
def State.endCycle (s : State) : State := { s with inputs := s.inputs.tail }

/-- The end of the cycle on an outcome. -/
def endCycle : Result → Result
  | .next t => .next t.endCycle
  | .fault r => .fault r
  | .refused r => .refused r

end Sys2Proof.Machine
end

