-- ==== Sys2Proof/Machine/ChipBytes.lean ====
section
/-! DEFINITION. The meanings of the bytes sent to the chip (30_encoding.md R110 to R118): each is the byte of a Transmit
that begins (40_bus_transactions.md R130; log 9), command bytes with flag 0, data bytes with flag 1 (R62). -/

namespace Sys2Proof.Machine

/-- LCD.CLEAR (R110). -/
def execLcdClear (s : State) : Result := transmit 0x01#8 false s

/-- LCD.RETURN_HOME (R111). -/
def execLcdReturnHome (s : State) : Result := transmit 0x02#8 false s

/-- LCD.SHIFT (R112). -/
def execLcdShift (target : ShiftTarget) (dir : ShiftDir) (s : State) : Result := transmit (shiftByte target dir) false s

/-- LCD.SET_DDRAM_ADDR (R113). -/
def execLcdSetDdramAddr (a : BitVec 7) (s : State) : Result := transmit (ddramByte a) false s

/-- LCD.ENTRY_MODE: the byte of the table's row, which is the default encoder's (R114; log 3). -/
def execLcdEntryMode (dir : CursorDir) (scroll : Bool) (s : State) : Result := transmit (entryByte dir scroll) false s

/-- LCD.DISPLAY_MODE: the byte of the table's row, which is the default encoder's (R114; log 3). -/
def execLcdDisplayMode (d c b : Bool) (s : State) : Result := transmit (displayByte d c b) false s

/-- LCD.INIT_0x30 (R117). -/
def execLcdInit30 (s : State) : Result := transmit 0x30#8 false s

/-- LCD.INIT_0x38 (R117). -/
def execLcdInit38 (s : State) : Result := transmit 0x38#8 false s

/-- LCD.INIT_0x33 (R117). -/
def execLcdInit33 (s : State) : Result := transmit 0x33#8 false s

/-- LCD.INIT_0x32 (R117). -/
def execLcdInit32 (s : State) : Result := transmit 0x32#8 false s

/-- LCD.INIT_0x28 (R117). -/
def execLcdInit28 (s : State) : Result := transmit 0x28#8 false s

/-- LCD.INIT_0x0E (R115). -/
def execLcdInit0E (s : State) : Result := transmit 0x0E#8 false s

/-- LCD.INIT_0x07 (R115). -/
def execLcdInit07 (s : State) : Result := transmit 0x07#8 false s

/-- LCD.DATA (R118). -/
def execLcdData (v : Byte) (s : State) : Result := transmit v true s

end Sys2Proof.Machine
end

