-- ==== Sys2Proof/Machine/DataWrites.lean ====
section
/-! DEFINITION. The meanings of the data writes and of the payload word (44_data_writes.md, 30_encoding.md R91, R96,
R100). -/

namespace Sys2Proof.Machine

/-- WRITE_BYTE value: sent as it is, flag 1 (R220). -/
def execWriteByte (value : Byte) (s : State) : Result := singleSend opWriteByte value value value true s

/-- WRITE_CHAR c: the block cannot tell it from a WRITE_BYTE code(c) (R221). -/
def execWriteChar (code : Byte) (s : State) : Result := singleSend opWriteByte code code code true s

/-- WRITE_BYTES: the header of a burst of n payload words (R222). -/
def execWriteBytes (n : Byte) (s : State) : Result := startBurst opWriteBytes n s

/-- WRITE_STR: the header of WRITE_BYTES over the n character codes (R223). -/
def execWriteStr (n : Byte) (s : State) : Result := startBurst opWriteBytes n s

/-- PAYLOAD takes a payload word: `TXB <- word[7:0]; TXF <- 1; BCNT <- BCNT - 1`, the event REQ PAY, the send starts (R91
case 2, R140). -/
def takePayload (b : Byte) (s : State) : Result :=
  if s.bcnt = 0#8 then .fault .burstCount
  else .next (State.beginSend b true { s with bcnt := s.bcnt - 1#8, trace := s.trace ++ [.pay b] })

/-- DRAIN discards a payload word: `BCNT <- BCNT - 1`, the event REQ PAY (discarded); the response after the last one (R91
case 3, R140). -/
def discardPayload (b : Byte) (s : State) : Result :=
  if s.bcnt = 0#8 then .fault .burstCount
  else
    .next
      { s with
        bcnt := s.bcnt - 1#8
        trace := s.trace ++ [.payDiscarded b]
        ustate := if s.bcnt = 1#8 then .rsp else .drain }

/-- A payload word (R96): taken in PAYLOAD, discarded in DRAIN, not accepted anywhere else (R91). -/
def execPayloadWord (_ignored byte : Byte) (s : State) : Result :=
  match s.ustate with
  | .payload => takePayload byte s
  | .drain => discardPayload byte s
  | .idle | .pre | .rs | .data | .enHi | .hold | .enLo | .post | .rsp => .next s

end Sys2Proof.Machine
end

