-- ==== Sys2Proof/Machine/FixedCommands.lean ====
section
/-! DEFINITION. The meanings of CLEAR, HOME, SET_CURSOR_POS, SHIFT_CURSOR, SHIFT_DISPLAY (42_commands.md). -/

namespace Sys2Proof.Machine

/-- CLEAR (R180). -/
def execClear (ignored : Byte) (s : State) : Result := singleSend opClear ignored 0#8 cmdClear false s

/-- HOME (R181). -/
def execHome (ignored : Byte) (s : State) : Result := singleSend opHome ignored 0#8 cmdHome false s

/-- SET_CURSOR_POS position: the top bit is dropped (R182). -/
def execSetCursorPos (position : Byte) (s : State) : Result :=
  singleSend opSetCursorPos position position (cmdSetCursorPos position) false s

/-- SHIFT_CURSOR direction (R183). -/
def execShiftCursor (ignored : BitVec 7) (dir : ShiftDir) (s : State) : Result :=
  singleSend opShiftCursor (flagArg ignored dir.bit) (flagByte dir.bit) (cmdShiftCursor dir) false s

/-- SHIFT_DISPLAY direction (R184). -/
def execShiftDisplay (ignored : BitVec 7) (dir : ShiftDir) (s : State) : Result :=
  singleSend opShiftDisplay (flagArg ignored dir.bit) (flagByte dir.bit) (cmdShiftDisplay dir) false s

end Sys2Proof.Machine
end

