-- ==== Sys2Proof/Machine/InitSequences.lean ====
section
/-! DEFINITION. The meanings of INIT8 and INIT4 (41_init_sequences.md). -/

namespace Sys2Proof.Machine

/-- INIT8: the 8-bit bus (R161). -/
def execInit8 (ignored : Byte) (s : State) : Result := startInit opInit8 ignored .eight s

/-- INIT4: the 4-bit bus (R162). -/
def execInit4 (ignored : Byte) (s : State) : Result := startInit opInit4 ignored .four s

end Sys2Proof.Machine
end

