-- ==== Sys2Proof/Machine/ModeCommands.lean ====
section
/-! DEFINITION. The meanings of the six configuration commands (43_mode_commands.md). -/

namespace Sys2Proof.Machine

/-- SET_DISPLAY_MODE d, c, b: all of DISPLAY (R201). -/
def execSetDisplayMode (ignored : BitVec 5) (d c b : Bool) (s : State) : Result :=
  mutateDisplay opSetDisplayMode (modeArg ignored d c b) (modeArg 0#5 d c b) (fun _ => ⟨d, c, b⟩) s

/-- SET_AUTOSCROLL enabled: ENTRY.AS (R202). -/
def execSetAutoscroll (ignored : BitVec 7) (enabled : Bool) (s : State) : Result :=
  mutateEntry opSetAutoscroll (flagArg ignored enabled) (flagByte enabled) (fun e => { e with autoscroll := enabled }) s

/-- SET_CURSOR_VISIBILITY visible: DISPLAY.C (R203). -/
def execSetCursorVisibility (ignored : BitVec 7) (visible : Bool) (s : State) : Result :=
  mutateDisplay opSetCursorVisibility (flagArg ignored visible) (flagByte visible) (fun m => { m with cursor := visible }) s

/-- SET_DISPLAY on: DISPLAY.D (R204). -/
def execSetDisplay (ignored : BitVec 7) (on : Bool) (s : State) : Result :=
  mutateDisplay opSetDisplay (flagArg ignored on) (flagByte on) (fun m => { m with display := on }) s

/-- SET_CURSOR_BLINK on: DISPLAY.B (R205). -/
def execSetCursorBlink (ignored : BitVec 7) (on : Bool) (s : State) : Result :=
  mutateDisplay opSetCursorBlink (flagArg ignored on) (flagByte on) (fun m => { m with blink := on }) s

/-- SET_CURSOR_MODE direction: ENTRY.DIR (R206). -/
def execSetCursorMode (ignored : BitVec 7) (dir : CursorDir) (s : State) : Result :=
  mutateEntry opSetCursorMode (flagArg ignored dir.bit) (flagByte dir.bit) (fun e => { e with dir := dir }) s

end Sys2Proof.Machine
end

