-- ==== Sys2Proof/Machine/Dispatch.lean ====
section
/-! DEFINITION. The dispatch: one arm per constructor of Instr, each one call of that instruction's meaning. -/

namespace Sys2Proof.Machine

def exec (i : Instr) (s : State) : Host.Outcome State Fault Refusal :=
  match i with
  | .init8 a => Sys2Proof.Machine.execInit8 a s
  | .init4 a => Sys2Proof.Machine.execInit4 a s
  | .clear a => Sys2Proof.Machine.execClear a s
  | .home a => Sys2Proof.Machine.execHome a s
  | .setCursorPos p => Sys2Proof.Machine.execSetCursorPos p s
  | .shiftCursor g d => Sys2Proof.Machine.execShiftCursor g d s
  | .shiftDisplay g d => Sys2Proof.Machine.execShiftDisplay g d s
  | .setDisplayMode g d c b => Sys2Proof.Machine.execSetDisplayMode g d c b s
  | .setAutoscroll g e => Sys2Proof.Machine.execSetAutoscroll g e s
  | .setCursorVisibility g v => Sys2Proof.Machine.execSetCursorVisibility g v s
  | .setDisplay g o => Sys2Proof.Machine.execSetDisplay g o s
  | .setCursorBlink g o => Sys2Proof.Machine.execSetCursorBlink g o s
  | .setCursorMode g d => Sys2Proof.Machine.execSetCursorMode g d s
  | .writeByte v => Sys2Proof.Machine.execWriteByte v s
  | .writeBytes n => Sys2Proof.Machine.execWriteBytes n s
  | .payloadWord g b => Sys2Proof.Machine.execPayloadWord g b s
  | .writeChar c => Sys2Proof.Machine.execWriteChar c s
  | .writeStr n => Sys2Proof.Machine.execWriteStr n s
  | .lcdClear => Sys2Proof.Machine.execLcdClear s
  | .lcdReturnHome => Sys2Proof.Machine.execLcdReturnHome s
  | .lcdShift t d => Sys2Proof.Machine.execLcdShift t d s
  | .lcdSetDdramAddr a => Sys2Proof.Machine.execLcdSetDdramAddr a s
  | .lcdEntryMode d h => Sys2Proof.Machine.execLcdEntryMode d h s
  | .lcdDisplayMode d c b => Sys2Proof.Machine.execLcdDisplayMode d c b s
  | .lcdInit30 => Sys2Proof.Machine.execLcdInit30 s
  | .lcdInit38 => Sys2Proof.Machine.execLcdInit38 s
  | .lcdInit33 => Sys2Proof.Machine.execLcdInit33 s
  | .lcdInit32 => Sys2Proof.Machine.execLcdInit32 s
  | .lcdInit28 => Sys2Proof.Machine.execLcdInit28 s
  | .lcdInit0E => Sys2Proof.Machine.execLcdInit0E s
  | .lcdInit07 => Sys2Proof.Machine.execLcdInit07 s
  | .lcdData v => Sys2Proof.Machine.execLcdData v s

end Sys2Proof.Machine
end

