-- ==== Sys2Proof/Machine/Sequencer.lean ====
section
/-! DEFINITION. The micro-sequencer (40_bus_transactions.md R140): one definition per state that is not the taking of a
word, and AfterSend. -/

namespace Sys2Proof.Machine

/-- The byte just sent was an entry-mode byte: by SET_AUTOSCROLL, SET_CURSOR_MODE, init byte 0x07 of ROM8 or init step 5
of ROM4 (R50). -/
def sentEntryMode (s : State) : Bool :=
  if s.phase = .initialising then
    match s.busw with
    | .eight => decide (s.seqPc = 4#3)
    | .four => decide (s.seqPc = 5#3)
  else decide (s.opc = opSetAutoscroll) || decide (s.opc = opSetCursorMode)

/-- The byte just sent was a display-mode byte: by SET_DISPLAY_MODE, SET_DISPLAY, SET_CURSOR_VISIBILITY,
SET_CURSOR_BLINK, or init byte 0x0E (R50). -/
def sentDisplayMode (s : State) : Bool :=
  if s.phase = .initialising then
    match s.busw with
    | .eight => decide (s.seqPc = 2#3)
    | .four => decide (s.seqPc = 3#3)
  else
    decide (s.opc = opSetDisplayMode) || decide (s.opc = opSetDisplay) ||
      decide (s.opc = opSetCursorVisibility) || decide (s.opc = opSetCursorBlink)

/-- The ghosts take the byte of a send that completed (R50; log 8). -/
def State.noteSent (s : State) : State :=
  { s with
    chipEntry := if sentEntryMode s then some s.txb else s.chipEntry
    chipDisplay := if sentDisplayMode s then some s.txb else s.chipDisplay }

/-- `AfterSend()` while initialising: SEQ_PC up by 1; READY and the response at the end of the ROM, else the next byte
(R140, R163, R164). -/
def afterInitByte (s : State) : Result :=
  if s.seqPc.toNat + 1 = romLen s.busw then
    .next (State.respond .ok { s with seqPc := s.seqPc + 1#3, phase := .ready })
  else
    match romAt s.cfg s.entry s.busw (s.seqPc.toNat + 1) with
    | some b => .next (State.beginSend b false { s with seqPc := s.seqPc + 1#3 })
    | none => .fault .romIndex

/-- `AfterSend()` (R140), with the ghosts (R50). -/
def afterSend (s : State) : Result :=
  if s.phase = .initialising then afterInitByte s.noteSent
  else if s.opc = opWriteBytes ∧ s.bcnt ≠ 0#8 then .next { s.noteSent with ustate := .payload }
  else .next (State.respond .ok s.noteSent)

/-- PRE: Delay(T_PWR), then the first init byte (R140). -/
def preCycle (s : State) : Result :=
  delayCycle .pwr
    (fun t =>
      match romAt t.cfg t.entry t.busw 0 with
      | some b => .next (t.beginSend b false)
      | none => .fault .romIndex) s

/-- DATA: DataSet(BusData(BUSW, NIB, TXB)), then EN_HI (R132, R140). -/
def dataCycle (s : State) : State :=
  pinCycle (.data (busData s.busw s.nib s.txb).1 (busData s.busw s.nib s.txb).2)
    (fun t => { t with ustate := .enHi }) s

/-- EN_HI: PinSet(EN, 1), then HOLD (R134, R140). -/
def enHiCycle (s : State) : State := pinCycle (.en true) (fun t => t.enterDelay .hold .hold) s

/-- HOLD: Delay(T_EN_HOLD), then EN_LO (R134, R140). -/
def holdCycle (s : State) : Result := delayCycle .hold (fun t => .next { t with ustate := .enLo }) s

/-- After the EN fall: the second nibble in 4-bit mode, otherwise POST (R140). -/
def afterPulse (s : State) : State :=
  if s.busw = .four ∧ s.nib = false then { s with nib := true, ustate := .data } else s.enterDelay .post (postDelay s)

/-- EN_LO: PinSet(EN, 0), then the second nibble or POST (R134, R136, R140). -/
def enLoCycle (s : State) : State := pinCycle (.en false) afterPulse s

/-- POST: Delay(PostDelay()), then AfterSend() (R138, R140). -/
def postCycle (s : State) : Result := delayCycle (postDelay s) afterSend s

/-- RSP: the response waits until the host takes it (R97, R140). -/
def rspCycle (s : State) : State := if s.now.rspReady then s.takeResponse else s

/-- A cycle in which no word is taken, by USTATE (R140). -/
def sequence (s : State) : Result :=
  match s.ustate with
  | .idle => .next s
  | .pre => preCycle s
  | .rs => .next (rsCycle s)
  | .data => .next (dataCycle s)
  | .enHi => .next (enHiCycle s)
  | .hold => holdCycle s
  | .enLo => .next (enLoCycle s)
  | .post => postCycle s
  | .payload => .next s
  | .drain => .next s
  | .rsp => .next (rspCycle s)

end Sys2Proof.Machine
end

