-- ==== Sys2Proof/Machine/Fetch.lean ====
section
/-! DEFINITION. Where a cycle reads its word: the request port in IDLE, the payload port in PAYLOAD and DRAIN
(30_encoding.md R91), TXF and TXB when a Transmit begins (40_bus_transactions.md R130; log 9). And how a word is put
there for the next cycle. -/

namespace Sys2Proof.Machine

/-- The word of this cycle, with its place. -/
def fetchWord (s : State) : Option PortWord :=
  match s.ustate with
  | .idle => if s.now.opValid then some (.request s.now.opWord) else none
  | .payload => if s.now.opValid then some (.payload s.now.opWord) else none
  | .drain => if s.now.opValid then some (.payload s.now.opWord) else none
  | .rs => some (.chip s.txf s.txb)
  | .pre | .data | .enHi | .hold | .enLo | .post | .rsp => none

/-- The instruction of this cycle, where there is one. -/
def fetch (s : State) : Option Instr :=
  match fetchWord s with
  | none => none
  | some p =>
    match decode p with
    | .ok i => some i
    | .error _ => none

/-- The phase in which a request word is admissible: POWERING_UP for INIT8 and INIT4, READY for all others (R93). -/
def phaseFor (w : Word) : Phase :=
  if upperByte w = opInit8 then .poweringUp
  else if upperByte w = opInit4 then .poweringUp
  else .ready

/-- The state in which the next cycle takes the word `p` (log 12). A request word: presented in IDLE, in the phase that
admits it. A payload word: presented in PAYLOAD, inside a burst with a word to come. A chip byte: the operands of a
Transmit that begins, with the RS operation answered ok. -/
def placeWord (p : PortWord) (s : State) : State :=
  match p with
  | .request w =>
    { s with
      ustate := .idle
      phase := phaseFor w
      inputs := { silentIn with opValid := true, opWord := w } :: s.inputs }
  | .payload w =>
    { s with
      ustate := .payload
      phase := .ready
      opc := opWriteBytes
      bcnt := if s.bcnt = 0#8 then 1#8 else s.bcnt
      inputs := { silentIn with opValid := true, opWord := w } :: s.inputs }
  | .chip f b =>
    { s with
      ustate := .rs
      txb := b
      txf := f
      inputs := { silentIn with pinAck := true } :: s.inputs }

end Sys2Proof.Machine
end

