-- ==== Sys2Proof/Machine/Step.lean ====
section
/-! DEFINITION. One step is one clock cycle (30_encoding.md R101; log 1). -/

namespace Sys2Proof.Machine

/-- Reset beats everything (R246, R280). Otherwise the cycle's word, where there is one, is executed; without one the
micro-sequencer goes on (R140). Then the cycle is over. -/
def step (s : State) : Host.Outcome State Fault Refusal :=
  if s.now.rst then .next s.afterReset.endCycle
  else
    match fetch s with
    | some i => endCycle (exec i s)
    | none => endCycle (sequence s)

/-- The bits `w` of a table row of `nbits` bits placed where the next step reads its instruction (log 12). -/
def State.withFetchWord (s : State) (nbits w : Nat) : State :=
  match tablePlace nbits w with
  | some p => placeWord p s
  | none => s

end Sys2Proof.Machine
end

