-- ==== Sys2Proof/Machine/Ports.lean ====
section
/-! DEFINITION. The output ports as functions of the state and of the present cycle's inputs (30_encoding.md R101, R91,
R97; 40_bus_transactions.md R144; 70_reset_and_hazards.md R280). -/

namespace Sys2Proof.Machine

/-- The pin operation a state issues (R140). -/
def pinOpOf (s : State) : Option PinOp :=
  match s.ustate with
  | .rs => some (.rs s.txf)
  | .data => some (.data (busData s.busw s.nib s.txb).1 (busData s.busw s.nib s.txb).2)
  | .enHi => some (.en true)
  | .enLo => some (.en false)
  | .idle | .pre | .hold | .post | .payload | .drain | .rsp => none

/-- `pin_kind`, `pin_mask` and `pin_val` of a pin operation that is being issued (R101, R144). -/
structure PinPort where
  kind : BitVec 2
  mask : Byte
  val : Byte
deriving DecidableEq, Repr

/-- The pin port of a pin operation (R101): kind 0 RS, 1 DATA, 2 EN; the mask is 0 except for DATA; for RS and EN bit 0 of
the value is the level. DESIGN CHOICE (log 20): bits 7 to 1 of the value are 0 for RS and EN, of which R101 says nothing. -/
def pinPort : PinOp → PinPort
  | .rs level => ⟨0#2, 0#8, flagByte level⟩
  | .data mask v => ⟨1#2, mask, v⟩
  | .en level => ⟨2#2, 0#8, flagByte level⟩

/-- The pin operation being issued in this cycle, as its ports: none while rst = 1 (R280). -/
def pinPortOf (s : State) : Option PinPort := if s.now.rst then none else (pinOpOf s).map pinPort

/-- The output ports (R101). `pin_mask` has a value in every cycle. DESIGN CHOICE (log 20): `pin_kind` and `pin_val` have
none while `pin_req` = 0, for which R101 states none. -/
structure PortOut where
  opReady : Bool
  rspValid : Bool
  rspCode : Bool
  readyOut : Bool
  busyOut : Bool
  fltOut : Bool
  rsOut : Bool
  enOut : Bool
  dOut : Byte
  pinReq : Bool
  pinKind : Option (BitVec 2)
  pinMask : Byte
  pinVal : Option Byte
deriving DecidableEq, Repr

/-- `op_ready` for the word now on `op_word` (R91): an admissible request word in IDLE, any word in PAYLOAD and DRAIN. -/
def wouldTake (s : State) : Bool :=
  match s.ustate with
  | .idle =>
    match decodeRequest s.now.opWord with
    | .ok _ => admissible s.phase (upperByte s.now.opWord)
    | .error _ => false
  | .payload | .drain => true
  | .pre | .rs | .data | .enHi | .hold | .enLo | .post | .rsp => false

/-- All the outputs of a cycle. While rst = 1, op_ready, rsp_valid and pin_req are 0 (R280). `pin_mask` is 0 unless a DATA
operation is being issued (R101). -/
def outputs (s : State) : PortOut where
  opReady := !s.now.rst && wouldTake s
  rspValid := !s.now.rst && decide (s.ustate = .rsp)
  rspCode := rspBit s.rspc
  readyOut := readyO s
  busyOut := busyO s
  fltOut := s.flt
  rsOut := s.lines.rs
  enOut := s.lines.en
  dOut := s.lines.d
  pinReq := (pinPortOf s).isSome
  pinKind := (pinPortOf s).map PinPort.kind
  pinMask := ((pinPortOf s).map PinPort.mask).getD 0#8
  pinVal := (pinPortOf s).map PinPort.val

end Sys2Proof.Machine
end

