-- ==== Sys2Proof/Safety.lean ====
section
/-! DEFINITION. The terms the statements use: admissible parameters, the invariant of the machine, environments that
serve a list of events or do not reset, the event lists of the procedures Transmit, Send and of the two init operations. -/

namespace Sys2Proof.Machine

/-- `n` cycles from `s`, stopping at a fault or refusal (Host.Core.run of this machine). -/
def after : Nat → State → Result
  | 0, s => .next s
  | n + 1, s =>
    match step s with
    | .next t => after n t
    | .fault r => .fault r
    | .refused r => .refused r

/-- What the spec asks of the parameters: R8, R9 and R10 of the hold, the units and the encoders; R32 of every duration,
that TMR holds its ticks. That the counts of T_PWR, T_FSET and T_SETTLE are at least 1, as R8 says of T_EN_HOLD, is the
model's reading (log 3). -/
structure ValidParams (c : Params) : Prop where
  ticksPerS : 1 ≤ c.ticksPerS
  longRatio : 1 ≤ c.longRatio
  counts : ∀ k, 1 ≤ (durationOf c k).count
  /-- Every delay's ticks fit into TMR, since no rule lets a counter wrap (R32; log 15). -/
  fits : ∀ k, ticksOf c k < 2 ^ tmrWidth c
  encEntryInjective : ∀ e e', encEntry c e = encEntry c e' → e = e'
  encDisplayInjective : ∀ m m', encDisplay c m = encDisplay c m' → m = m'

/-- PRE, HOLD, POST: the states that wait for a delay (R258). -/
def isDelayState : UState → Bool
  | .pre | .hold | .post => true
  | .idle | .rs | .data | .enHi | .enLo | .payload | .drain | .rsp => false

/-- RS to POST: the states that send the byte in TXB. -/
def isSendState : UState → Bool
  | .rs | .data | .enHi | .hold | .enLo | .post => true
  | .idle | .pre | .payload | .drain | .rsp => false

/-- RS, DATA, EN_HI, EN_LO: the states that issue a pin operation (R140). -/
def isPinState : UState → Bool
  | .rs | .data | .enHi | .enLo => true
  | .idle | .pre | .hold | .post | .payload | .drain | .rsp => false

/-- The opcodes of the mutators of ENTRY (R202, R206). -/
def isEntryMutator (op : Byte) : Prop := op = opSetAutoscroll ∨ op = opSetCursorMode

/-- The opcodes of the mutators of DISPLAY (R201, R203 to R205). -/
def isDisplayMutator (op : Byte) : Prop :=
  op = opSetDisplayMode ∨ op = opSetCursorVisibility ∨ op = opSetDisplay ∨ op = opSetCursorBlink

/-- The invariant: what holds in every state a run reaches. -/
structure Inv (s : State) : Prop where
  /-- The parameters are admissible (R10). -/
  params : ValidParams s.cfg
  /-- TMR is 0 exactly when no delay is in progress (R32). -/
  timer : s.tmr = 0 ↔ isDelayState s.ustate = false
  /-- TMR holds what its width can hold (R32). -/
  timerWidth : s.tmr < 2 ^ tmrWidth s.cfg
  /-- Before an init operation nothing runs, nothing has failed and no line is driven (R55). -/
  poweringUp : s.phase = .poweringUp → s.ustate = .idle ∧ s.flt = false ∧ s.lines = ⟨false, false, 0#8⟩ ∧ s.nib = false
  /-- While initialising a byte is on its way and nothing has failed (R93, R244). -/
  initialising : s.phase = .initialising →
    (s.ustate = .pre ∨ isSendState s.ustate = true) ∧ s.flt = false ∧ s.seqPc.toNat < romLen s.busw
  /-- While initialising OPC is the init operation that fixed BUSW (R23, R30). -/
  initOpcode : s.phase = .initialising →
    (s.opc = opInit8 ∧ s.busw = .eight) ∨ (s.opc = opInit4 ∧ s.busw = .four)
  /-- PRE comes before the first init byte (R27, R161). -/
  pre : s.ustate = .pre → s.phase = .initialising ∧ s.seqPc = 0#3
  /-- The init byte on its way is the one of the ROM (R163), sent with flag 0 (R115, R116). -/
  initByte : s.phase = .initialising → isSendState s.ustate = true →
    romAt s.cfg s.entry s.busw s.seqPc.toNat = some s.txb ∧ s.txf = false
  /-- READY is reached at the end of the ROM (R164, R26). -/
  ready : s.phase = .ready → s.seqPc.toNat = romLen s.busw
  /-- FAILED does nothing more than present its response (R244). -/
  failed : s.phase = .failed → (s.ustate = .idle ∨ s.ustate = .rsp) ∧ s.flt = true
  /-- Before READY no mutator has run (R78). -/
  stored : s.phase ≠ .ready → s.entry = s.cfg.entryReset ∧ s.display = s.cfg.displayReset
  /-- EN is active exactly in HOLD and EN_LO as long as nothing has failed (R143). -/
  enable : s.flt = false → (s.lines.en = true ↔ s.ustate = .hold ∨ s.ustate = .enLo)
  /-- NIB stays 0 in 8-bit mode (R28). -/
  nibble : s.busw = .eight → s.nib = false
  /-- NIB is 0 when USTATE enters RS (R28). -/
  rsNibble : s.ustate = .rs → s.nib = false
  /-- D3 to D0 are never driven in 4-bit mode (R137). -/
  lowLines : s.busw = .four → s.lines.d.extractLsb' 0 4 = 0#4
  /-- BCNT counts only inside a burst (R31). -/
  burst : s.bcnt ≠ 0#8 → s.phase = .ready ∧ s.opc = opWriteBytes ∧
    (isSendState s.ustate = true ∨ s.ustate = .payload ∨ s.ustate = .drain)
  /-- PAYLOAD and DRAIN have words to come (R96, R140). -/
  wordsToCome : s.ustate = .payload ∨ s.ustate = .drain → s.bcnt ≠ 0#8
  /-- DRAIN is the draining of a failed burst (R224). -/
  drain : s.ustate = .drain → s.bfail = true ∧ s.flt = true ∧ s.rspc = .pinFail
  /-- BFAIL is 1 only from a failure inside a burst until the response is taken (R31). -/
  bfail : s.bfail = true → (s.ustate = .drain ∨ s.ustate = .rsp) ∧ s.opc = opWriteBytes
  /-- BFAIL is 1 only where a failure has happened whose response PIN_FAIL is still to be taken (R31). -/
  burstFailed : s.bfail = true → s.flt = true ∧ s.rspc = .pinFail
  /-- PIN_FAIL is presented only after a failure (R97, R243). -/
  response : s.ustate = .rsp → s.rspc = .pinFail → s.flt = true
  /-- A mutator of ENTRY sends the whole register (R200). -/
  entrySend : s.phase = .ready → isSendState s.ustate = true → isEntryMutator s.opc →
    s.txb = encEntry s.cfg s.entry ∧ s.txf = false
  /-- A mutator of DISPLAY sends the whole register (R200). -/
  displaySend : s.phase = .ready → isSendState s.ustate = true → isDisplayMutator s.opc →
    s.txb = encDisplay s.cfg s.display ∧ s.txf = false
  /-- After a mutator of ENTRY that ends with OK the byte last sent encodes the register (R209). -/
  entrySent : s.phase = .ready → s.ustate = .rsp → s.rspc = .ok → isEntryMutator s.opc →
    s.chipEntry = some (encEntry s.cfg s.entry)
  /-- After a mutator of DISPLAY that ends with OK the byte last sent encodes the register (R209). -/
  displaySent : s.phase = .ready → s.ustate = .rsp → s.rspc = .ok → isDisplayMutator s.opc →
    s.chipDisplay = some (encDisplay s.cfg s.display)

/-- A cycle without reset in which the pin capability answers ok. -/
def answersOk (c : PortIn) : Prop := c.rst = false ∧ c.pinAck = true ∧ c.pinErr = false

/-- The inputs begin with any number of cycles as in `idle`, then one as in `done`, all without reset, and `next` holds of
what comes after. -/
def untilCycle (idle done : PortIn → Prop) (next : List PortIn → Prop) (ins : List PortIn) : Prop :=
  ∃ (wait : List PortIn) (c : PortIn) (rest : List PortIn),
    ins = wait ++ c :: rest ∧ (∀ x ∈ wait, x.rst = false ∧ idle x) ∧ c.rst = false ∧ done c ∧ next rest

/-- The inputs `ins` are exactly the cycles in which an environment without reset lets the events `es` happen. A pin
operation is answered as its event says, after any number of cycles (R144, R263). A payload word with the event's byte is
presented after any number of cycles (R91). A delay takes its ticks (R301), whatever the pin capability and the host do
meanwhile. A request and the taking of a response are no part of what `es` may hold. -/
def serves (c : Params) : List Event → List PortIn → Prop
  | [] => fun ins => ins = []
  | .pin _ a :: es =>
    untilCycle (fun x => x.pinAck = false) (fun x => x.pinAck = true ∧ x.pinErr = decide (a = .fail)) (serves c es)
  | .wait k :: es => fun ins =>
    ∃ (d rest : List PortIn), ins = d ++ rest ∧ d.length = ticksOf c k ∧ (∀ x ∈ d, x.rst = false) ∧ serves c es rest
  | .pay b :: es =>
    untilCycle (fun x => x.opValid = false) (fun x => x.opValid = true ∧ lowerByte x.opWord = b) (serves c es)
  | .payDiscarded b :: es =>
    untilCycle (fun x => x.opValid = false) (fun x => x.opValid = true ∧ lowerByte x.opWord = b) (serves c es)
  | .req _ _ :: _ => fun _ => False
  | .rsp _ :: _ => fun _ => False

/-- In each of the next `n` cycles of the run there is no reset, and a pin operation issued in it is answered ok in it, so
that every answer time is one cycle (R301). What the pin capability does at other times is not said. -/
def answeredAtOnce : Nat → State → Bool
  | 0, _ => true
  | n + 1, s =>
    !s.now.rst && (!isPinState s.ustate || (s.now.pinAck && !s.now.pinErr)) &&
      match step s with
      | .next t => answeredAtOnce n t
      | .fault _ => true
      | .refused _ => true

/-- The run from `s` is in USTATE `u` after `n` cycles, and in none of the states before. -/
def firstIn (u : UState) (n : Nat) (s : State) : Prop :=
  (∃ t, after n s = .next t ∧ t.ustate = u) ∧ ∀ m, m < n → ∃ t, after m s = .next t ∧ t.ustate ≠ u

/-- No reset in the next `n` cycles and no response taken: the environment leaves one operation to itself, and may answer
its pin operations in any way, at any time. -/
def undisturbed (n : Nat) (ins : List PortIn) : Prop := ∀ c ∈ ins.take n, c.rst = false ∧ c.rspReady = false

/-- One transaction (R133): `D, EN=1, W(hold), EN=0`. -/
def xactEvents (mask v : Byte) : List Event :=
  [.pin (.data mask v) .ok, .pin (.en true) .ok, .wait .hold, .pin (.en false) .ok]

/-- The events of Transmit(b, f) (R135, R136). -/
def transmitEvents (w : BusWidth) (b : Byte) (f : Bool) : List Event :=
  .pin (.rs f) .ok ::
    match w with
    | .eight => xactEvents 0xFF#8 b
    | .four => xactEvents 0xF0#8 (b.extractLsb' 4 4 ++ 0b0000#4) ++ xactEvents 0xF0#8 (b.extractLsb' 0 4 ++ 0b0000#4)

/-- The events of Send(b, f) (R138). -/
def sendEvents (w : BusWidth) (b : Byte) (f : Bool) : List Event := transmitEvents w b f ++ [.wait .settle]

/-- A Transmit of `b` with flag `f` has begun: its RS operation was answered ok (R130, R131, R140). -/
def transmitBegun (b : Byte) (f : Bool) (s : State) : State :=
  { s with
    txb := b
    txf := f
    lines := { s.lines with rs := f }
    nib := false
    ustate := .data
    trace := s.trace ++ [.pin (.rs f) .ok] }

/-- The cycles of a Transmit whose pin operations are answered at once: 4 or 7 pin operations, 1 or 2 holds (R141). -/
def transmitCycles (c : Params) : BusWidth → Nat
  | .eight => 4 + ticksOf c .hold
  | .four => 7 + 2 * ticksOf c .hold

/-- The lines after a Transmit without failure (R135, R136). -/
def linesAfter (w : BusWidth) (b : Byte) (f : Bool) (l : Lines) : Lines :=
  match w with
  | .eight => ⟨f, false, b⟩
  | .four => ⟨f, false, b.extractLsb' 0 4 ++ l.d.extractLsb' 0 4⟩

/-- The init bytes with their delays: the first is followed by T_FSET, the others by T_SETTLE (R166). -/
def initByteEvents (w : BusWidth) : List Byte → List Event
  | [] => []
  | b :: rest => transmitEvents w b false ++ .wait .fset :: rest.flatMap (fun b' => sendEvents w b' false)

/-- The events of an init operation after its REQ and before its response (R161, R162): T_PWR, then the ROM. -/
def initEvents (c : Params) (e : EntryMode) (w : BusWidth) : List Event :=
  .wait .pwr :: initByteEvents w (romOf c e w)

/-- The events of a burst after its header (R222): each payload word is followed by its send. -/
def burstEvents (w : BusWidth) (bs : List Byte) : List Event := bs.flatMap (fun b => .pay b :: sendEvents w b true)

/-- The events of a burst that fails after the complete sends of `bs`: the word `b` is taken, its Transmit gets as far as
`done`, the pin operation `op` fails, and the words of `ds` are discarded (R224, R225). -/
def failedBurstEvents (w : BusWidth) (bs : List Byte) (b : Byte) (done : List Event) (op : PinOp) (ds : List Byte) :
    List Event :=
  burstEvents w bs ++ .pay b :: done ++ .pin op .fail :: ds.map .payDiscarded

end Sys2Proof.Machine
end

