-- ==== Sys2Proof/Certificates/Slice0/Obligations.lean ====
section
/-! DEFINITION. The statements for the provers. Each docstring names the rules of spec/ it states, or, where it rests on a
choice of the model, the log entry. -/

open Sys2Proof Sys2Proof.Machine

/-! ### Reset and the invariant -/

/-- The table of 10_state.md R55, register by register, with the default ENTRY_RESET and DISPLAY_RESET of R10 (PRESUMED,
log 3) and the model's own fields empty (DESIGN CHOICE, logs 2, 4, 16). -/
def Obligations.ResetHoldsTheTableOfResetValues : Prop :=
  State.reset =
    { phase := .poweringUp, busw := .eight, entry := ⟨false, .increment⟩, display := ⟨true, true, false⟩,
      seqPc := 0#3, ustate := .idle, nib := false, txb := 0x00#8, txf := false, opc := 0x00#8, arg := 0x00#8,
      bcnt := 0x00#8, bfail := false, tmr := 0, rspc := .ok, flt := false, lines := ⟨false, false, 0x00#8⟩,
      chipEntry := none, chipDisplay := none, cfg := defaultParams, inputs := [], trace := [], freeCtr := 0 }

/-- 70_reset_and_hazards.md R280 and 60_exceptions.md R246, R251: in a cycle with rst = 1, whatever the block was doing
and whatever the other inputs are, every register takes the value of R55 for the build's parameters. That the trace, the
parameters, the inputs to come and the free-value counter stay is the model's choice (log 16). -/
def Obligations.ResetBeatsEverything : Prop :=
  ∀ s : State, s.now.rst = true →
    step s = .next
      { phase := .poweringUp, busw := .eight, entry := s.cfg.entryReset, display := s.cfg.displayReset,
        seqPc := 0#3, ustate := .idle, nib := false, txb := 0x00#8, txf := false, opc := 0x00#8, arg := 0x00#8,
        bcnt := 0x00#8, bfail := false, tmr := 0, rspc := .ok, flt := false, lines := ⟨false, false, 0x00#8⟩,
        chipEntry := none, chipDisplay := none, cfg := s.cfg, inputs := s.inputs.tail, trace := s.trace,
        freeCtr := s.freeCtr }

/-- The invariant holds at reset. -/
def Obligations.ResetMeetsTheInvariant : Prop := Inv State.reset

/-- Every step keeps the invariant: what it says of PHASE, TMR, NIB, BCNT, BFAIL, SEQ_PC, LINES, the byte being sent and the
ghosts (R22, R26, R28, R31, R32, R78, R137, R143, R163, R164, R200, R209, R244) holds after any cycle it held before. Its
clause on parameters asks what the model reads of R8 to R10 and R32 (logs 3 and 15), and NIB in RS and BFAIL after a burst's
last byte are as logs 6 and 7 say. -/
def Obligations.EveryStepKeepsTheInvariant : Prop := ∀ s t : State, Inv s → step s = .next t → Inv t

/-- 60_exceptions.md R242: in a state that meets the invariant no cycle stops with a fault or a refusal, whatever the host,
the pin capability and reset do. The stops it excludes are the model's own choice (log 14). -/
def Obligations.NoStepStopsUnderTheInvariant : Prop := ∀ s : State, Inv s → ∃ t, step s = .next t

/-! ### Decoding and the step -/

/-- Words written out from R90 to R94 and R110 to R118 decode to the instructions they stand for. -/
def Obligations.WordsWrittenFromTheTablesDecode : Prop :=
  decode (.request 0x0100#16) = .ok (.init8 0#8) ∧
  decode (.request 0x12C8#16) = .ok (.setCursorPos 200#8) ∧
  decode (.request 0x13FF#16) = .ok (.shiftCursor 127#7 .right) ∧
  decode (.request 0x2005#16) = .ok (.setDisplayMode 0#5 true false true) ∧
  decode (.request 0x3103#16) = .ok (.writeBytes 3#8) ∧
  decode (.payload 0xFF41#16) = .ok (.payloadWord 0xFF#8 0x41#8) ∧
  decode (.chip false 0x1C#8) = .ok (.lcdShift .display .right) ∧
  decode (.chip true 0x41#8) = .ok (.lcdData 0x41#8) ∧
  decode (.request 0xFF00#16) = .error (.reservedOpcode 0xFF#8)

/-- Decode and encode agree for every well-formed instruction, with every operand at every value (R90, R92, R94, R110 to
R118). -/
def Obligations.DecodeOfEncodeIsTheInstruction : Prop :=
  ∀ i : Instr, wellFormed i = true → decode (encode i) = .ok i

/-- The other direction: a word that decodes is the word of the instruction it decodes to, so no bit of it is dropped. -/
def Obligations.EncodeOfDecodeIsTheWord : Prop :=
  ∀ (p : PortWord) (i : Instr), decode p = .ok i → encode i = p

/-- R92, R98: a request word decodes exactly when its opcode is one of the fifteen listed. -/
def Obligations.ListedOpcodesDecodeAndNoOthers : Prop :=
  ∀ w : Word, (∃ i, decode (.request w) = .ok i) ↔
    upperByte w ∈ [0x01#8, 0x02#8, 0x10#8, 0x11#8, 0x12#8, 0x13#8, 0x14#8, 0x20#8, 0x21#8, 0x22#8, 0x23#8, 0x24#8,
      0x25#8, 0x30#8, 0x31#8]

/-- A step runs the decoded instruction: the word presented in IDLE, the payload word presented in PAYLOAD or DRAIN (R91),
and the byte whose Transmit begins in RS (R130; where a byte is read is the model's choice, log 9). Around it the step
only moves on to the next cycle's inputs. -/
def Obligations.StepRunsTheDecodedInstruction : Prop :=
  ∀ (s : State) (i : Instr), s.now.rst = false →
    ((s.ustate = .idle ∧ s.now.opValid = true ∧ decode (.request s.now.opWord) = .ok i) ∨
      ((s.ustate = .payload ∨ s.ustate = .drain) ∧ s.now.opValid = true ∧ decode (.payload s.now.opWord) = .ok i) ∨
      (s.ustate = .rs ∧ decode (.chip s.txf s.txb) = .ok i)) →
    step s = endCycle (exec i s)

/-- A cycle in a state that waits for a word and gets none changes nothing (R91, R140). -/
def Obligations.WaitingForAWordChangesNothing : Prop :=
  ∀ s : State, s.now.rst = false → s.now.opValid = false →
    (s.ustate = .idle ∨ s.ustate = .payload ∨ s.ustate = .drain) → step s = .next s.endCycle

/-! ### What each accepted word does: result, frame and completion in one equation -/

/-- INIT8 and INIT4 accepted in POWERING_UP (R161, R162, R91, R258): the bus width is fixed, T_PWR begins with the ticks of
the build's T_PWR (a parameter, D14, log 3), nothing else changes. -/
def Obligations.InitOperationsBeginTheirSequence : Prop :=
  ∀ (g : Byte) (s : State), s.ustate = .idle → s.phase = .poweringUp →
    exec (.init8 g) s = .next
      { s with opc := 0x01#8, arg := g, trace := s.trace ++ [.req 0x01#8 0#8], busw := .eight, phase := .initialising,
               seqPc := 0#3, ustate := .pre, tmr := ticks s.cfg s.cfg.tPwr } ∧
    exec (.init4 g) s = .next
      { s with opc := 0x02#8, arg := g, trace := s.trace ++ [.req 0x02#8 0#8], busw := .four, phase := .initialising,
               seqPc := 0#3, ustate := .pre, tmr := ticks s.cfg s.cfg.tPwr }

/-- The five fixed commands accepted in READY (R180 to R185, R110 to R113): the command byte is loaded with flag 0 and its
send begins with NIB at 0 (R28; log 6); nothing else changes. -/
def Obligations.FixedCommandsLoadTheirByte : Prop :=
  ∀ (s : State), s.ustate = .idle → s.phase = .ready →
    (∀ g : Byte, exec (.clear g) s = .next
      { s with opc := 0x10#8, arg := g, trace := s.trace ++ [.req 0x10#8 0#8],
               txb := 0b0000_0001#8, txf := false, nib := false, ustate := .rs }) ∧
    (∀ g : Byte, exec (.home g) s = .next
      { s with opc := 0x11#8, arg := g, trace := s.trace ++ [.req 0x11#8 0#8],
               txb := 0b0000_0010#8, txf := false, nib := false, ustate := .rs }) ∧
    (∀ p : Byte, exec (.setCursorPos p) s = .next
      { s with opc := 0x12#8, arg := p, trace := s.trace ++ [.req 0x12#8 p],
               txb := 0b1000_0000#8 ||| (p &&& 0b0111_1111#8), txf := false, nib := false, ustate := .rs }) ∧
    (∀ g : BitVec 7, exec (.shiftCursor g .left) s = .next
      { s with opc := 0x13#8, arg := flagArg g false, trace := s.trace ++ [.req 0x13#8 0#8],
               txb := 0b0001_0000#8, txf := false, nib := false, ustate := .rs }) ∧
    (∀ g : BitVec 7, exec (.shiftCursor g .right) s = .next
      { s with opc := 0x13#8, arg := flagArg g true, trace := s.trace ++ [.req 0x13#8 1#8],
               txb := 0b0001_0100#8, txf := false, nib := false, ustate := .rs }) ∧
    (∀ g : BitVec 7, exec (.shiftDisplay g .left) s = .next
      { s with opc := 0x14#8, arg := flagArg g false, trace := s.trace ++ [.req 0x14#8 0#8],
               txb := 0b0001_1000#8, txf := false, nib := false, ustate := .rs }) ∧
    (∀ g : BitVec 7, exec (.shiftDisplay g .right) s = .next
      { s with opc := 0x14#8, arg := flagArg g true, trace := s.trace ++ [.req 0x14#8 1#8],
               txb := 0b0001_1100#8, txf := false, nib := false, ustate := .rs })

/-- 42_commands.md R182: the top bit of the position is dropped, so position and position + 128 send the same byte, and the
byte is always in 0x80 to 0xFF. -/
def Obligations.CursorPositionTopBitIsDropped : Prop :=
  ∀ p : Byte, cmdSetCursorPos p = cmdSetCursorPos (p + 128#8) ∧ 0x80 ≤ (cmdSetCursorPos p).toNat ∧
    (cmdSetCursorPos p).toNat % 128 = p.toNat % 128

/-- The six configuration commands accepted in READY (R200 to R206): one register is updated, the whole of it is encoded
after the update, the byte is loaded with flag 0 and its send begins with NIB at 0 (R28; log 6); nothing else changes. -/
def Obligations.MutatorsUpdateEncodeAndLoad : Prop :=
  ∀ (s : State), s.ustate = .idle → s.phase = .ready →
    (∀ (g : BitVec 5) (d c b : Bool), exec (.setDisplayMode g d c b) s = .next
      { s with opc := 0x20#8, arg := modeArg g d c b, trace := s.trace ++ [.req 0x20#8 (modeArg 0#5 d c b)],
               display := ⟨d, c, b⟩, txb := encDisplay s.cfg ⟨d, c, b⟩, txf := false, nib := false, ustate := .rs }) ∧
    (∀ (g : BitVec 7) (e : Bool), exec (.setAutoscroll g e) s = .next
      { s with opc := 0x21#8, arg := flagArg g e, trace := s.trace ++ [.req 0x21#8 (flagArg 0#7 e)],
               entry := ⟨e, s.entry.dir⟩, txb := encEntry s.cfg ⟨e, s.entry.dir⟩, txf := false, nib := false, ustate := .rs }) ∧
    (∀ (g : BitVec 7) (v : Bool), exec (.setCursorVisibility g v) s = .next
      { s with opc := 0x22#8, arg := flagArg g v, trace := s.trace ++ [.req 0x22#8 (flagArg 0#7 v)],
               display := ⟨s.display.display, v, s.display.blink⟩,
               txb := encDisplay s.cfg ⟨s.display.display, v, s.display.blink⟩, txf := false, nib := false, ustate := .rs }) ∧
    (∀ (g : BitVec 7) (o : Bool), exec (.setDisplay g o) s = .next
      { s with opc := 0x23#8, arg := flagArg g o, trace := s.trace ++ [.req 0x23#8 (flagArg 0#7 o)],
               display := ⟨o, s.display.cursor, s.display.blink⟩,
               txb := encDisplay s.cfg ⟨o, s.display.cursor, s.display.blink⟩, txf := false, nib := false, ustate := .rs }) ∧
    (∀ (g : BitVec 7) (o : Bool), exec (.setCursorBlink g o) s = .next
      { s with opc := 0x24#8, arg := flagArg g o, trace := s.trace ++ [.req 0x24#8 (flagArg 0#7 o)],
               display := ⟨s.display.display, s.display.cursor, o⟩,
               txb := encDisplay s.cfg ⟨s.display.display, s.display.cursor, o⟩, txf := false, nib := false, ustate := .rs }) ∧
    (∀ g : BitVec 7, exec (.setCursorMode g .decrement) s = .next
      { s with opc := 0x25#8, arg := flagArg g false, trace := s.trace ++ [.req 0x25#8 0#8],
               entry := ⟨s.entry.autoscroll, .decrement⟩,
               txb := encEntry s.cfg ⟨s.entry.autoscroll, .decrement⟩, txf := false, nib := false, ustate := .rs }) ∧
    (∀ g : BitVec 7, exec (.setCursorMode g .increment) s = .next
      { s with opc := 0x25#8, arg := flagArg g true, trace := s.trace ++ [.req 0x25#8 1#8],
               entry := ⟨s.entry.autoscroll, .increment⟩,
               txb := encEntry s.cfg ⟨s.entry.autoscroll, .increment⟩, txf := false, nib := false, ustate := .rs })

/-- WRITE_BYTE and its other name WRITE_CHAR accepted in READY (R220, R221): the byte as it is, flag 1, the send begins with
NIB at 0 (R28; log 6); nothing else changes. -/
def Obligations.WriteByteAndWriteCharLoadTheByte : Prop :=
  ∀ (v : Byte) (s : State), s.ustate = .idle → s.phase = .ready →
    exec (.writeByte v) s = .next
      { s with opc := 0x30#8, arg := v, trace := s.trace ++ [.req 0x30#8 v], txb := v, txf := true, nib := false, ustate := .rs } ∧
    exec (.writeChar v) s = .next
      { s with opc := 0x30#8, arg := v, trace := s.trace ++ [.req 0x30#8 v], txb := v, txf := true, nib := false, ustate := .rs }

/-- The header of WRITE_BYTES and of its other name WRITE_STR accepted in READY (R96, R222, R223): with n = 0 the response
OK at once, otherwise BCNT = n and PAYLOAD; nothing else changes. -/
def Obligations.BurstHeadersLoadTheCount : Prop :=
  ∀ (s : State), s.ustate = .idle → s.phase = .ready →
    (∀ i : Instr, i = .writeBytes 0#8 ∨ i = .writeStr 0#8 → exec i s = .next
      { s with opc := 0x31#8, arg := 0#8, trace := s.trace ++ [.req 0x31#8 0#8], bcnt := 0#8, rspc := .ok,
               ustate := .rsp }) ∧
    (∀ (n : Byte) (i : Instr), n ≠ 0#8 → i = .writeBytes n ∨ i = .writeStr n → exec i s = .next
      { s with opc := 0x31#8, arg := n, trace := s.trace ++ [.req 0x31#8 n], bcnt := n, ustate := .payload })

/-- A payload word (R91 cases 2 and 3, R96, R140): in PAYLOAD it is loaded with flag 1 and its send begins with NIB at 0
(R28; log 6); in DRAIN it is discarded, and the last one leads to the response. BCNT goes down by 1; nothing else
changes. -/
def Obligations.PayloadWordsAreTakenOrDiscarded : Prop :=
  ∀ (g b : Byte) (s : State), s.bcnt ≠ 0#8 →
    (s.ustate = .payload → exec (.payloadWord g b) s = .next
      { s with bcnt := s.bcnt - 1#8, trace := s.trace ++ [.pay b], txb := b, txf := true, nib := false, ustate := .rs }) ∧
    (s.ustate = .drain → s.bcnt = 1#8 → exec (.payloadWord g b) s = .next
      { s with bcnt := 0#8, trace := s.trace ++ [.payDiscarded b], ustate := .rsp }) ∧
    (s.ustate = .drain → s.bcnt ≠ 1#8 → exec (.payloadWord g b) s = .next
      { s with bcnt := s.bcnt - 1#8, trace := s.trace ++ [.payDiscarded b], ustate := .drain })

/-- Each byte of the chip's table begins its Transmit when the RS operation is answered ok (R110 to R118, R130, R131,
R62): command bytes with RS = 0, data bytes with RS = 1; NIB is 0 (R28, R140; log 6); nothing else changes. That these rows
are read in RS is the model's choice (log 9). That LCD.ENTRY_MODE and LCD.DISPLAY_MODE send the bytes of the default
encoders, whatever encoder the build has, is the model's reading of the table's rows (PRESUMED, log 3). -/
def Obligations.ChipBytesBeginTheirTransmit : Prop :=
  ∀ s : State, s.ustate = .rs → s.now.pinAck = true → s.now.pinErr = false →
    exec .lcdClear s = .next (transmitBegun 0b0000_0001#8 false s) ∧
    exec .lcdReturnHome s = .next (transmitBegun 0b0000_0010#8 false s) ∧
    exec (.lcdShift .cursor .left) s = .next (transmitBegun 0b0001_0000#8 false s) ∧
    exec (.lcdShift .cursor .right) s = .next (transmitBegun 0b0001_0100#8 false s) ∧
    exec (.lcdShift .display .left) s = .next (transmitBegun 0b0001_1000#8 false s) ∧
    exec (.lcdShift .display .right) s = .next (transmitBegun 0b0001_1100#8 false s) ∧
    (∀ a : BitVec 7, exec (.lcdSetDdramAddr a) s = .next (transmitBegun (0b1#1 ++ a) false s)) ∧
    (∀ (dir : CursorDir) (h : Bool),
      exec (.lcdEntryMode dir h) s = .next (transmitBegun (encEntry defaultParams ⟨h, dir⟩) false s)) ∧
    (∀ d c b : Bool,
      exec (.lcdDisplayMode d c b) s = .next (transmitBegun (encDisplay defaultParams ⟨d, c, b⟩) false s)) ∧
    exec .lcdInit30 s = .next (transmitBegun 0x30#8 false s) ∧
    exec .lcdInit38 s = .next (transmitBegun 0x38#8 false s) ∧
    exec .lcdInit33 s = .next (transmitBegun 0x33#8 false s) ∧
    exec .lcdInit32 s = .next (transmitBegun 0x32#8 false s) ∧
    exec .lcdInit28 s = .next (transmitBegun 0x28#8 false s) ∧
    exec .lcdInit0E s = .next (transmitBegun 0x0E#8 false s) ∧
    exec .lcdInit07 s = .next (transmitBegun 0x07#8 false s) ∧
    (∀ v : Byte, exec (.lcdData v) s = .next (transmitBegun v true s))

/-! ### What is not accepted -/

/-- R93: the table of admissible opcodes; and while initialising USTATE is never IDLE, in any state that meets the
invariant. -/
def Obligations.AdmissibleOpcodesByPhase : Prop :=
  (∀ (p : Phase) (o : Byte), admissible p o = true ↔
    (p = .poweringUp ∧ o ∈ [0x01#8, 0x02#8]) ∨
    (p = .ready ∧ o ∈ [0x10#8, 0x11#8, 0x12#8, 0x13#8, 0x14#8, 0x20#8, 0x21#8, 0x22#8, 0x23#8, 0x24#8, 0x25#8, 0x30#8,
      0x31#8])) ∧
  ∀ s : State, Inv s → s.phase = .initialising → s.ustate ≠ .idle

/-- R91, R98, R250: a word that is not accepted has no effect of any kind. Every instruction, at every place where it is not
taken. That a chip byte is read in RS only is the model's choice (log 9). -/
def Obligations.WordsNotTakenHaveNoEffect : Prop :=
  ∀ (i : Instr) (s : State),
    (∀ w, encode i = .request w → (s.ustate ≠ .idle ∨ admissible s.phase (upperByte w) = false) →
      exec i s = .next s) ∧
    (∀ w, encode i = .payload w → s.ustate ≠ .payload → s.ustate ≠ .drain → exec i s = .next s) ∧
    (∀ f b, encode i = .chip f b → s.ustate ≠ .rs → exec i s = .next s)

/-- R91 case 1, R101: in IDLE, op_ready tells whether the word presented is taken. If it is, OPC and ARG are latched and the
block is busy; if not, the cycle changes nothing. -/
def Obligations.OpReadyTellsWhetherARequestIsTaken : Prop :=
  ∀ s : State, s.ustate = .idle → s.now.rst = false → s.now.opValid = true →
    ((outputs s).opReady = true →
      ∃ t, step s = .next t ∧ t.opc = upperByte s.now.opWord ∧ t.arg = lowerByte s.now.opWord ∧ t.ustate ≠ .idle) ∧
    ((outputs s).opReady = false → step s = .next s.endCycle)

/-- R290, R91: while an operation is in flight and no payload word is wanted, what the host presents makes no difference: two
states that differ only in the word presented take the same step. -/
def Obligations.ARequestWhileBusyMakesNoDifference : Prop :=
  ∀ (s : State) (c : PortIn) (rest : List PortIn) (v v' : Bool) (w w' : Word),
    s.ustate ≠ .idle → s.ustate ≠ .payload → s.ustate ≠ .drain →
    step { s with inputs := { c with opValid := v, opWord := w } :: rest } =
      step { s with inputs := { c with opValid := v', opWord := w' } :: rest }

/-- R95: the argument bits an operation does not use change nothing but ARG, which latches them. -/
def Obligations.UnusedArgumentBitsChangeOnlyArg : Prop :=
  ∀ (s : State),
    (∀ g g' : Byte, ∀ i i' : Instr,
      ((i = .init8 g ∧ i' = .init8 g') ∨ (i = .init4 g ∧ i' = .init4 g') ∨ (i = .clear g ∧ i' = .clear g') ∨
        (i = .home g ∧ i' = .home g')) →
      ∀ t, exec i s = .next t → ∃ a, exec i' s = .next { t with arg := a }) ∧
    (∀ g g' : BitVec 7, ∀ i i' : Instr,
      ((∃ d, i = .shiftCursor g d ∧ i' = .shiftCursor g' d) ∨ (∃ d, i = .shiftDisplay g d ∧ i' = .shiftDisplay g' d) ∨
        (∃ e, i = .setAutoscroll g e ∧ i' = .setAutoscroll g' e) ∨
        (∃ v, i = .setCursorVisibility g v ∧ i' = .setCursorVisibility g' v) ∨
        (∃ o, i = .setDisplay g o ∧ i' = .setDisplay g' o) ∨ (∃ o, i = .setCursorBlink g o ∧ i' = .setCursorBlink g' o) ∨
        (∃ d, i = .setCursorMode g d ∧ i' = .setCursorMode g' d)) →
      ∀ t, exec i s = .next t → ∃ a, exec i' s = .next { t with arg := a }) ∧
    (∀ (g g' : BitVec 5) (d c b : Bool) (t : State), exec (.setDisplayMode g d c b) s = .next t →
      ∃ a, exec (.setDisplayMode g' d c b) s = .next { t with arg := a })

/-- R90, R98: the upper byte of a payload word is ignored. -/
def Obligations.PayloadUpperByteMakesNoDifference : Prop :=
  ∀ (g g' b : Byte) (s : State), exec (.payloadWord g b) s = exec (.payloadWord g' b) s

/-! ### Pin operations, lines and the exception PinFailure -/

/-- 20_memory.md R67: on the 8-bit bus a data operation answered ok gives every line Di the bit i of the byte; RS and EN
stay. -/
def Obligations.EightBitDataOperationDrivesEachLineWithItsBit : Prop :=
  ∀ s : State, s.ustate = .data → s.busw = .eight → s.now.rst = false → s.now.pinAck = true → s.now.pinErr = false →
    ∃ t, step s = .next t ∧ t.ustate = .enHi ∧ t.lines.rs = s.lines.rs ∧ t.lines.en = s.lines.en ∧
      t.trace = s.trace ++ [.pin (.data 0xFF#8 s.txb) .ok] ∧
      ∀ i, i < 8 → t.lines.d.getLsbD i = s.txb.getLsbD i

/-- 20_memory.md R68, 40_bus_transactions.md R132: on the 4-bit bus a data operation answered ok gives D7 to D4 the upper
nibble, then the lower one, in bit order, and leaves D3 to D0, RS and EN. -/
def Obligations.FourBitDataOperationDrivesTheUpperLinesWithTheNibble : Prop :=
  ∀ s : State, s.ustate = .data → s.busw = .four → s.now.rst = false → s.now.pinAck = true → s.now.pinErr = false →
    ∃ t, step s = .next t ∧ t.ustate = .enHi ∧ t.lines.rs = s.lines.rs ∧ t.lines.en = s.lines.en ∧
      ∀ i, i < 4 → t.lines.d.getLsbD i = s.lines.d.getLsbD i ∧
        t.lines.d.getLsbD (4 + i) = if s.nib then s.txb.getLsbD i else s.txb.getLsbD (4 + i)

/-- R144, R263: a pin operation without an answer waits; nothing changes, and in the next cycle the same operation is
requested with the same values. -/
def Obligations.AnUnansweredPinOperationWaits : Prop :=
  ∀ s : State, isPinState s.ustate = true → s.now.rst = false → s.now.pinAck = false →
    step s = .next s.endCycle ∧ (outputs s).pinReq = true ∧
      ((s.endCycle).now.rst = false → (outputs s.endCycle).pinReq = true ∧
        (outputs s.endCycle).pinKind = (outputs s).pinKind ∧ (outputs s.endCycle).pinMask = (outputs s).pinMask ∧
        (outputs s.endCycle).pinVal = (outputs s).pinVal)

/-- 60_exceptions.md R243, R244, R245, R208, R224: what taking the exception PinFailure does to the registers. FLT and RSPC
are set; INITIALISING becomes FAILED; a burst with words to come drains, anything else responds; ENTRY, DISPLAY and
every other register stay. BFAIL is set where the burst drains (R140, R224); that it is not set when its last byte fails is
the model's reading of R31 beside them (log 7). -/
def Obligations.PinFailureSetsTheRegisters : Prop :=
  ∀ s : State, isPinState s.ustate = true → s.now.rst = false → s.now.pinAck = true → s.now.pinErr = true →
    ∃ t, step s = .next t ∧
      t = { s with flt := true, rspc := .pinFail,
                   phase := if s.phase = .initialising then .failed else s.phase,
                   bfail := if s.opc = 0x31#8 ∧ s.bcnt ≠ 0#8 then true else s.bfail,
                   ustate := if s.opc = 0x31#8 ∧ s.bcnt ≠ 0#8 then .drain else .rsp,
                   lines := t.lines, trace := t.trace, freeCtr := t.freeCtr, inputs := s.inputs.tail } ∧
      ∃ op, pinOpOf s = some op ∧ t.trace = s.trace ++ [.pin op .fail]

/-- R139, R131, R132, R134, U2: what a failed pin operation leaves on the lines. A touched line holds its old or its new
level, every other line keeps its level. -/
def Obligations.PinFailureLeavesTouchedLinesOldOrNew : Prop :=
  ∀ s : State, s.now.rst = false → s.now.pinAck = true → s.now.pinErr = true →
    (s.ustate = .rs → ∃ t, step s = .next t ∧ (t.lines.rs = s.lines.rs ∨ t.lines.rs = s.txf) ∧
      t.lines.en = s.lines.en ∧ t.lines.d = s.lines.d) ∧
    (s.ustate = .data → ∃ t, step s = .next t ∧ t.lines.rs = s.lines.rs ∧ t.lines.en = s.lines.en ∧
      ∀ i, i < 8 →
        (t.lines.d.getLsbD i = s.lines.d.getLsbD i ∨
          ((busData s.busw s.nib s.txb).1.getLsbD i = true ∧
            t.lines.d.getLsbD i = (busData s.busw s.nib s.txb).2.getLsbD i))) ∧
    (s.ustate = .enHi → ∃ t, step s = .next t ∧ t.lines.rs = s.lines.rs ∧ t.lines.d = s.lines.d ∧
      (t.lines.en = s.lines.en ∨ t.lines.en = true)) ∧
    (s.ustate = .enLo → ∃ t, step s = .next t ∧ t.lines.rs = s.lines.rs ∧ t.lines.d = s.lines.d ∧
      (t.lines.en = s.lines.en ∨ t.lines.en = false))

/-- R97, R140, R247: the response waits until the host takes it; taking it clears BFAIL, returns to IDLE and changes nothing
else. -/
def Obligations.TakingTheResponseEndsTheOperation : Prop :=
  ∀ s : State, s.ustate = .rsp → s.now.rst = false →
    (s.now.rspReady = false → step s = .next s.endCycle) ∧
    (s.now.rspReady = true → step s = .next
      { s with bfail := false, ustate := .idle, trace := s.trace ++ [.rsp s.rspc], inputs := s.inputs.tail })

/-- R244, R93: FAILED takes no request and drives no line, for as long as there is no reset. -/
def Obligations.FailedStaysFailedUntilReset : Prop :=
  ∀ (n : Nat) (s : State), s.phase = .failed → (s.ustate = .idle ∨ s.ustate = .rsp) →
    (∀ c ∈ s.inputs.take n, c.rst = false) →
    ∃ t, after n s = .next t ∧ t.phase = .failed ∧ (t.ustate = .idle ∨ t.ustate = .rsp) ∧ t.lines = s.lines ∧
      t.opc = s.opc ∧ t.flt = s.flt

/-- R137: the multiplexer, by cases. -/
def Obligations.MultiplexerByBusWidthAndNibble : Prop :=
  ∀ (b : Byte) (n : Bool),
    busData .eight n b = (0xFF#8, b) ∧
    busData .four false b = (0xF0#8, b &&& 0xF0#8) ∧
    busData .four true b = (0xF0#8, b <<< 4)

/-! ### Sequences: Transmit, delays, whole operations -/

/-- 40_bus_transactions.md R135: a Transmit on the 8-bit bus whose pin operations are answered ok, each after any number of
cycles, is one transaction: RS, the eight data lines, one enable pulse, in that order, and it leaves LINES.RS = f,
LINES.D = b, LINES.EN = 0. Nothing else but NIB, USTATE and TMR changes (R140, R258; that it ends in the last of these
cycles is the model's clock, log 1). -/
def Obligations.TransmitOnTheEightBitBus : Prop :=
  ∀ (s : State) (ins rest : List PortIn), ValidParams s.cfg → s.ustate = .rs → s.busw = .eight →
    serves s.cfg (transmitEvents .eight s.txb s.txf) ins → s.inputs = ins ++ rest →
    after ins.length s = .next
      { s with nib := false, ustate := .post, tmr := ticksOf s.cfg (postDelay s), lines := ⟨s.txf, false, s.txb⟩,
               inputs := rest,
               trace := s.trace ++ [.pin (.rs s.txf) .ok, .pin (.data 0xFF#8 s.txb) .ok, .pin (.en true) .ok, .wait .hold,
                 .pin (.en false) .ok] }

/-- 40_bus_transactions.md R136: a Transmit on the 4-bit bus whose pin operations are answered ok, each after any number of
cycles, is two transactions with RS held: the upper nibble, then the lower, each with one enable pulse, on D7 to D4. It
leaves LINES.RS = f, LINES.D[7:4] = b[3:0], LINES.D[3:0] unchanged, LINES.EN = 0. Nothing else but NIB, USTATE and TMR
changes (R140, R258; log 1). -/
def Obligations.TransmitOnTheFourBitBus : Prop :=
  ∀ (s : State) (ins rest : List PortIn), ValidParams s.cfg → s.ustate = .rs → s.busw = .four →
    serves s.cfg (transmitEvents .four s.txb s.txf) ins → s.inputs = ins ++ rest →
    after ins.length s = .next
      { s with nib := true, ustate := .post, tmr := ticksOf s.cfg (postDelay s),
               lines := ⟨s.txf, false, s.txb.extractLsb' 0 4 ++ s.lines.d.extractLsb' 0 4⟩,
               inputs := rest,
               trace := s.trace ++ [.pin (.rs s.txf) .ok,
                 .pin (.data 0xF0#8 (s.txb.extractLsb' 4 4 ++ 0b0000#4)) .ok, .pin (.en true) .ok, .wait .hold,
                 .pin (.en false) .ok,
                 .pin (.data 0xF0#8 (s.txb.extractLsb' 0 4 ++ 0b0000#4)) .ok, .pin (.en true) .ok, .wait .hold,
                 .pin (.en false) .ok] }

/-- R258, R301: a delay entered with TMR = ticks(d) lasts exactly that many cycles, counts TMR down by one a cycle, records
its event once, drives no line, and is left with TMR = 0. -/
def Obligations.ADelayLastsItsTicks : Prop :=
  ∀ (s : State) (k : DelayKind), Inv s →
    ((s.ustate = .pre ∧ k = .pwr) ∨ (s.ustate = .hold ∧ k = .hold) ∨ (s.ustate = .post ∧ k = postDelay s)) →
    s.tmr = ticksOf s.cfg k → (∀ c ∈ s.inputs.take (ticksOf s.cfg k), c.rst = false) →
    (∀ m, m < ticksOf s.cfg k → ∃ t, after m s = .next t ∧ t.ustate = s.ustate ∧ t.tmr = ticksOf s.cfg k - m ∧
      t.lines = s.lines) ∧
    ∃ t, after (ticksOf s.cfg k) s = .next t ∧ t.ustate ≠ s.ustate ∧ t.tmr = 0 ∧ t.lines = s.lines ∧
      t.trace = s.trace ++ [.wait k]

/-- R259: the tick counts of a duration, and those of the four default durations. -/
def Obligations.TickCountsOfDurations : Prop :=
  (∀ (c : Params) (n : Nat),
    ticks c ⟨n, .short⟩ = n * c.ticksPerS ∧ ticks c ⟨n, .long⟩ = n * c.longRatio * c.ticksPerS) ∧
  ticksOf defaultParams .pwr = 15000 ∧ ticksOf defaultParams .fset = 5000 ∧ ticksOf defaultParams .settle = 100 ∧
  ticksOf defaultParams .hold = 1

/-- R32: the width of TMR is the smallest that holds `15 * LONG_RATIO * TICKS_PER_S` when T_PWR is (15, L), and 14 bits at the
defaults; for another T_PWR it is the smallest that holds its ticks (DEDUCED, log 15). In a state that meets the invariant
TMR stays within it. -/
def Obligations.TimerWidthIsTheSmallestForThePowerOnWait : Prop :=
  (∀ (c : Params) (n : Nat), ValidParams c → (tmrWidth c ≤ n ↔ ticksOf c .pwr < 2 ^ n)) ∧
  (∀ (c : Params) (n : Nat), ValidParams c → c.tPwr = ⟨15, .long⟩ →
    (tmrWidth c ≤ n ↔ 15 * c.longRatio * c.ticksPerS < 2 ^ n)) ∧
  tmrWidth defaultParams = 14 ∧ ∀ s : State, Inv s → s.tmr < 2 ^ tmrWidth s.cfg

/-- R300, R301: in a run whose pin operations are each answered ok in their first cycle, a Transmit begun in RS reaches POST
after exactly 4 cycles and one hold on the 8-bit bus, 7 cycles and two holds on the 4-bit bus; a Send in READY takes the
settle delay more, and then the response is presented, or the next payload word of a burst is wanted; INIT8 and INIT4,
with the cycle that accepts them, present their response after 20 and 49 cycles more than their delays and holds. That an
operation answered at once takes one cycle, and the taking of a word one, is the model's clock (log 1). -/
def Obligations.AnswersAtOnceTakeTheCyclesOfTheRule : Prop :=
  ∀ (s : State) (n : Nat), ValidParams s.cfg → answeredAtOnce n s = true →
    (s.ustate = .rs → s.busw = .eight → n = 4 + ticksOf s.cfg .hold → firstIn .post n s) ∧
    (s.ustate = .rs → s.busw = .four → n = 7 + 2 * ticksOf s.cfg .hold → firstIn .post n s) ∧
    (s.ustate = .rs → s.phase = .ready → n = transmitCycles s.cfg s.busw + ticksOf s.cfg .settle →
      firstIn (if s.opc = 0x31#8 ∧ s.bcnt ≠ 0#8 then .payload else .rsp) n s) ∧
    (∀ g : Byte, s.ustate = .idle → s.phase = .poweringUp → s.now.opValid = true → s.now.opWord = 0x01#8 ++ g →
      n = 1 + (ticksOf s.cfg .pwr + ticksOf s.cfg .fset + 4 * ticksOf s.cfg .settle + 5 * ticksOf s.cfg .hold + 20) →
      firstIn .rsp n s) ∧
    (∀ g : Byte, s.ustate = .idle → s.phase = .poweringUp → s.now.opValid = true → s.now.opWord = 0x02#8 ++ g →
      n = 1 + (ticksOf s.cfg .pwr + ticksOf s.cfg .fset + 6 * ticksOf s.cfg .settle + 14 * ticksOf s.cfg .hold + 49) →
      firstIn .rsp n s)

/-- R185, R138, R180 to R184: a fixed command presented in READY, its pin operations answered ok, each after any number of
cycles (R144, R263), runs to the response OK: its one command byte goes out with RS = 0, is followed by T_SETTLE, and no register of the configuration changes. -/
def Obligations.FixedCommandsRunToOk : Prop :=
  ∀ (s : State) (i : Instr) (op x b : Byte) (w : Word) (ins rest : List PortIn),
    ((∃ g, i = .clear g ∧ op = 0x10#8 ∧ x = 0#8 ∧ b = 0x01#8) ∨
      (∃ g, i = .home g ∧ op = 0x11#8 ∧ x = 0#8 ∧ b = 0x02#8) ∨
      (∃ p, i = .setCursorPos p ∧ op = 0x12#8 ∧ x = p ∧ b = 0x80#8 ||| (p &&& 0x7F#8)) ∨
      (∃ g, i = .shiftCursor g .left ∧ op = 0x13#8 ∧ x = 0#8 ∧ b = 0x10#8) ∨
      (∃ g, i = .shiftCursor g .right ∧ op = 0x13#8 ∧ x = 1#8 ∧ b = 0x14#8) ∨
      (∃ g, i = .shiftDisplay g .left ∧ op = 0x14#8 ∧ x = 0#8 ∧ b = 0x18#8) ∨
      (∃ g, i = .shiftDisplay g .right ∧ op = 0x14#8 ∧ x = 1#8 ∧ b = 0x1C#8)) →
    encode i = .request w → ValidParams s.cfg → s.ustate = .idle → s.phase = .ready →
    s.now.rst = false → s.now.opValid = true → s.now.opWord = w →
    serves s.cfg (sendEvents s.busw b false) ins → s.inputs.tail = ins ++ rest →
    ∃ t, after (1 + ins.length) s = .next t ∧ t.inputs = rest ∧ t.ustate = .rsp ∧ t.rspc = .ok ∧
      t.trace = s.trace ++ .req op x :: sendEvents s.busw b false ∧ t.lines = linesAfter s.busw b false s.lines ∧
      t.phase = .ready ∧ t.busw = s.busw ∧ t.seqPc = s.seqPc ∧ t.entry = s.entry ∧ t.display = s.display ∧
      t.flt = s.flt ∧ t.bcnt = s.bcnt ∧ t.chipEntry = s.chipEntry ∧ t.chipDisplay = s.chipDisplay

/-- R220, R138: WRITE_BYTE presented in READY, its pin operations answered ok, each after any number of cycles (R144, R263),
runs to the response OK: the byte goes out as it is with RS = 1, is followed by T_SETTLE, and no register of the configuration changes. -/
def Obligations.WriteByteRunsToOk : Prop :=
  ∀ (s : State) (v : Byte) (ins rest : List PortIn), ValidParams s.cfg → s.ustate = .idle → s.phase = .ready →
    s.now.rst = false → s.now.opValid = true → s.now.opWord = 0x30#8 ++ v →
    serves s.cfg (sendEvents s.busw v true) ins → s.inputs.tail = ins ++ rest →
    ∃ t, after (1 + ins.length) s = .next t ∧ t.inputs = rest ∧ t.ustate = .rsp ∧ t.rspc = .ok ∧
      t.trace = s.trace ++ .req 0x30#8 v :: sendEvents s.busw v true ∧ t.lines = linesAfter s.busw v true s.lines ∧
      t.phase = .ready ∧ t.busw = s.busw ∧ t.seqPc = s.seqPc ∧ t.entry = s.entry ∧ t.display = s.display ∧
      t.flt = s.flt ∧ t.bcnt = s.bcnt

/-- R200 to R207, R209: a mutator presented in READY, its pin operations answered ok, each after any number of cycles (R144,
R263), runs to the response OK. The register at the end is the stored one with the requested field changed, the event REQ
shows the operand, and exactly one command send goes out, whose byte encodes the whole register after the update, also
when nothing changed; the ghost of R50 then holds that byte (when it is set is the model's reading, log 8). For every
admissible encoder. -/
def Obligations.MutatorsSendTheWholeRegister : Prop :=
  ∀ (s : State) (i : Instr) (op x : Byte) (w : Word) (ins rest : List PortIn),
    encode i = .request w → ValidParams s.cfg → s.ustate = .idle → s.phase = .ready →
    s.now.rst = false → s.now.opValid = true → s.now.opWord = w → s.inputs.tail = ins ++ rest →
    (∀ m : EntryMode,
      ((∃ g e, i = .setAutoscroll g e ∧ op = 0x21#8 ∧ x = flagArg 0#7 e ∧ m = ⟨e, s.entry.dir⟩) ∨
        (∃ g, i = .setCursorMode g .decrement ∧ op = 0x25#8 ∧ x = 0#8 ∧ m = ⟨s.entry.autoscroll, .decrement⟩) ∨
        (∃ g, i = .setCursorMode g .increment ∧ op = 0x25#8 ∧ x = 1#8 ∧ m = ⟨s.entry.autoscroll, .increment⟩)) →
      serves s.cfg (sendEvents s.busw (encEntry s.cfg m) false) ins →
      ∃ t, after (1 + ins.length) s = .next t ∧ t.inputs = rest ∧ t.ustate = .rsp ∧ t.rspc = .ok ∧ t.entry = m ∧
        t.trace = s.trace ++ .req op x :: sendEvents s.busw (encEntry s.cfg m) false ∧
        t.chipEntry = some (encEntry s.cfg m) ∧ t.display = s.display ∧ t.chipDisplay = s.chipDisplay ∧
        t.lines = linesAfter s.busw (encEntry s.cfg m) false s.lines ∧ t.phase = .ready ∧ t.busw = s.busw ∧
        t.flt = s.flt) ∧
    (∀ m : DisplayMode,
      ((∃ g d c b, i = .setDisplayMode g d c b ∧ op = 0x20#8 ∧ x = modeArg 0#5 d c b ∧ m = ⟨d, c, b⟩) ∨
        (∃ g v, i = .setCursorVisibility g v ∧ op = 0x22#8 ∧ x = flagArg 0#7 v ∧
          m = ⟨s.display.display, v, s.display.blink⟩) ∨
        (∃ g o, i = .setDisplay g o ∧ op = 0x23#8 ∧ x = flagArg 0#7 o ∧ m = ⟨o, s.display.cursor, s.display.blink⟩) ∨
        (∃ g o, i = .setCursorBlink g o ∧ op = 0x24#8 ∧ x = flagArg 0#7 o ∧
          m = ⟨s.display.display, s.display.cursor, o⟩)) →
      serves s.cfg (sendEvents s.busw (encDisplay s.cfg m) false) ins →
      ∃ t, after (1 + ins.length) s = .next t ∧ t.inputs = rest ∧ t.ustate = .rsp ∧ t.rspc = .ok ∧ t.display = m ∧
        t.trace = s.trace ++ .req op x :: sendEvents s.busw (encDisplay s.cfg m) false ∧
        t.chipDisplay = some (encDisplay s.cfg m) ∧ t.entry = s.entry ∧ t.chipEntry = s.chipEntry ∧
        t.lines = linesAfter s.busw (encDisplay s.cfg m) false s.lines ∧ t.phase = .ready ∧ t.busw = s.busw ∧
        t.flt = s.flt)

/-- 41_init_sequences.md R161: INIT8 from POWERING_UP, its pin operations answered ok, each after any number of cycles (R144,
R263), sends the five bytes with their delays in order and ends READY with the response OK; ENTRY and DISPLAY are not written. -/
def Obligations.InitEightRunsToReady : Prop :=
  ∀ (s : State) (g : Byte) (ins rest : List PortIn), ValidParams s.cfg → s.ustate = .idle → s.phase = .poweringUp →
    s.now.rst = false → s.now.opValid = true → s.now.opWord = 0x01#8 ++ g →
    serves s.cfg (initEvents s.cfg s.entry .eight) ins → s.inputs.tail = ins ++ rest →
    after (1 + ins.length) s = .next
      { s with phase := .ready, busw := .eight, seqPc := 5#3, ustate := .rsp, nib := false, txb := 0x07#8, txf := false,
               opc := 0x01#8, arg := g, tmr := 0, rspc := .ok, lines := ⟨false, false, 0x07#8⟩,
               chipEntry := some 0x07#8, chipDisplay := some 0x0E#8,
               inputs := rest,
               trace := s.trace ++ [.req 0x01#8 0#8, .wait .pwr] ++
                 transmitEvents .eight 0x30#8 false ++ [.wait .fset] ++
                 transmitEvents .eight 0x38#8 false ++ [.wait .settle] ++
                 transmitEvents .eight 0x0E#8 false ++ [.wait .settle] ++
                 transmitEvents .eight 0x01#8 false ++ [.wait .settle] ++
                 transmitEvents .eight 0x07#8 false ++ [.wait .settle] }

/-- 41_init_sequences.md R162: INIT4 from POWERING_UP, its pin operations answered ok, each after any number of cycles (R144,
R263), sends the seven bytes with their delays in order, the sixth being EncEntry(ENTRY), and ends READY with the response OK; ENTRY and DISPLAY are not written. -/
def Obligations.InitFourRunsToReady : Prop :=
  ∀ (s : State) (g : Byte) (ins rest : List PortIn), ValidParams s.cfg → s.ustate = .idle → s.phase = .poweringUp →
    s.now.rst = false → s.now.opValid = true → s.now.opWord = 0x02#8 ++ g →
    serves s.cfg (initEvents s.cfg s.entry .four) ins → s.inputs.tail = ins ++ rest →
    after (1 + ins.length) s = .next
      { s with phase := .ready, busw := .four, seqPc := 7#3, ustate := .rsp, nib := true, txb := 0x80#8, txf := false,
               opc := 0x02#8, arg := g, tmr := 0, rspc := .ok,
               lines := ⟨false, false, 0x0#4 ++ s.lines.d.extractLsb' 0 4⟩,
               chipEntry := some (encEntry s.cfg s.entry), chipDisplay := some 0x0E#8,
               inputs := rest,
               trace := s.trace ++ [.req 0x02#8 0#8, .wait .pwr] ++
                 transmitEvents .four 0x33#8 false ++ [.wait .fset] ++
                 transmitEvents .four 0x32#8 false ++ [.wait .settle] ++
                 transmitEvents .four 0x28#8 false ++ [.wait .settle] ++
                 transmitEvents .four 0x0E#8 false ++ [.wait .settle] ++
                 transmitEvents .four 0x01#8 false ++ [.wait .settle] ++
                 transmitEvents .four (encEntry s.cfg s.entry) false ++ [.wait .settle] ++
                 transmitEvents .four 0x80#8 false ++ [.wait .settle] }

/-- R222, R225: a burst of 1 to 255 payload words, each presented after any number of cycles and its pin operations answered
ok, each after any number of cycles (R144, R263), sends the bytes in input order with RS = 1, each followed by T_SETTLE,
and ends with one response OK. -/
def Obligations.ABurstSendsItsBytesInOrder : Prop :=
  ∀ (bs : List Byte) (s : State) (ins rest : List PortIn), bs ≠ [] → bs.length ≤ 255 → ValidParams s.cfg →
    s.phase = .ready → s.opc = 0x31#8 → s.ustate = .payload → s.bcnt = BitVec.ofNat 8 bs.length →
    serves s.cfg (burstEvents s.busw bs) ins → s.inputs = ins ++ rest →
    ∃ t, after ins.length s = .next t ∧ t.ustate = .rsp ∧ t.rspc = .ok ∧ t.bcnt = 0#8 ∧
      t.trace = s.trace ++ burstEvents s.busw bs ∧ t.phase = .ready ∧ t.flt = s.flt ∧
      t.entry = s.entry ∧ t.display = s.display ∧ t.inputs = rest

/-- R224, R225: in DRAIN, where RSPC is PIN_FAIL, the remaining payload words, each presented after any number of cycles, are
accepted and discarded without any pin operation or delay, and then the response PIN_FAIL is presented. -/
def Obligations.AFailedBurstDrainsItsWords : Prop :=
  ∀ (bs : List Byte) (s : State) (ins rest : List PortIn), bs ≠ [] → bs.length ≤ 255 → s.ustate = .drain →
    s.rspc = .pinFail → s.bcnt = BitVec.ofNat 8 bs.length →
    serves s.cfg (bs.map .payDiscarded) ins → s.inputs = ins ++ rest →
    after ins.length s = .next
      { s with ustate := .rsp, rspc := .pinFail, bcnt := 0#8, inputs := rest,
               trace := s.trace ++ bs.map .payDiscarded }

/-- R224, R225: a burst whose Transmit of one byte fails, whichever byte and whichever pin operation, each answer and each
payload word coming after any number of cycles: the bytes before it are sent completely, each with its settle delay; of
that byte a proper prefix of the Transmit goes out, ending in the failed operation; then only discarded payload words
follow, and the response PIN_FAIL is presented, PHASE READY. BFAIL is 1 if words were discarded; that the failure of the
last byte leaves it is log 7. -/
def Obligations.ABurstThatFailsSendsAPrefixAndDiscardsTheRest : Prop :=
  ∀ (bs ds : List Byte) (b : Byte) (done : List Event) (op : PinOp) (s : State) (ins rest : List PortIn),
    bs.length + 1 + ds.length ≤ 255 → ValidParams s.cfg → s.phase = .ready → s.opc = 0x31#8 → s.ustate = .payload →
    s.bcnt = BitVec.ofNat 8 (bs.length + 1 + ds.length) →
    (done ++ [.pin op .ok]) <+: transmitEvents s.busw b true →
    serves s.cfg (failedBurstEvents s.busw bs b done op ds) ins → s.inputs = ins ++ rest →
    ∃ t, after ins.length s = .next t ∧ t.ustate = .rsp ∧ t.rspc = .pinFail ∧ t.flt = true ∧
      t.bfail = (s.bfail || !ds.isEmpty) ∧ t.bcnt = 0#8 ∧
      t.trace = s.trace ++ failedBurstEvents s.busw bs b done op ds ∧ t.phase = .ready ∧ t.entry = s.entry ∧
      t.display = s.display ∧ t.inputs = rest

/-- R185, R138, R75, R80, R139, R243: a single send in READY, whatever the pin capability answers and whenever, with no reset:
at every moment the trace holds a prefix of the events of the Send; or one pin operation of it failed, everything before
it is there in order, nothing after it, and the block presents PIN_FAIL. If the block presents OK, all of the Send has
happened. -/
def Obligations.ASendKeepsItsOrderWhateverTheAnswers : Prop :=
  ∀ (n : Nat) (s : State), s.ustate = .rs → s.phase = .ready → s.opc ≠ 0x31#8 → undisturbed n s.inputs →
    ∃ t, after n s = .next t ∧
      ((t.trace <+: s.trace ++ sendEvents s.busw s.txb s.txf ∧
          (t.ustate = .rsp → t.rspc = .ok ∧ t.trace = s.trace ++ sendEvents s.busw s.txb s.txf)) ∨
        ∃ done op, (done ++ [.pin op .ok]) <+: sendEvents s.busw s.txb s.txf ∧
          t.trace = s.trace ++ done ++ [.pin op .fail] ∧ t.ustate = .rsp ∧ t.rspc = .pinFail ∧ t.flt = true)

/-- R160, R163, R166, R167, R291, R75: an init operation, whatever the pin capability answers and whenever, with no reset: at
every moment the trace holds a prefix of the fixed sequence of its width; or one pin operation of it failed, nothing
follows it, and PHASE is FAILED with PIN_FAIL. If PHASE is READY, the whole sequence has happened. -/
def Obligations.AnInitKeepsItsOrderWhateverTheAnswers : Prop :=
  ∀ (n : Nat) (s : State), Inv s → s.ustate = .pre → s.tmr = ticksOf s.cfg .pwr → undisturbed n s.inputs →
    ∃ t, after n s = .next t ∧
      ((t.trace <+: s.trace ++ initEvents s.cfg s.entry s.busw ∧
          (t.phase = .ready → t.rspc = .ok ∧ t.trace = s.trace ++ initEvents s.cfg s.entry s.busw)) ∨
        ∃ done op, (done ++ [.pin op .ok]) <+: initEvents s.cfg s.entry s.busw ∧
          t.trace = s.trace ++ done ++ [.pin op .fail] ∧ t.phase = .failed ∧ t.rspc = .pinFail ∧ t.flt = true)

/-! ### Rules about the whole machine -/

/-- 10_state.md R22: PHASE changes exactly as the table says: reset gives POWERING_UP; an accepted INIT8 or INIT4 leads from
POWERING_UP to INITIALISING; the end of the last delay leads from INITIALISING to READY, a pin operation answered fail
to FAILED; in every other case PHASE stays. A delay ends in the cycle in which TMR is at most 1 (R258); that one with TMR = 0
ends at once is the model's choice (log 15). -/
def Obligations.PhaseFollowsTheTransitionTable : Prop :=
  ∀ s t : State, step s = .next t →
    t.phase =
      if s.now.rst = true then .poweringUp
      else if s.phase = .poweringUp ∧ s.ustate = .idle ∧ s.now.opValid = true ∧
          (upperByte s.now.opWord = 0x01#8 ∨ upperByte s.now.opWord = 0x02#8) then .initialising
      else if s.phase = .initialising ∧ s.ustate = .post ∧ s.tmr ≤ 1 ∧ s.seqPc.toNat + 1 = romLen s.busw then .ready
      else if s.phase = .initialising ∧ isPinState s.ustate = true ∧ s.now.pinAck = true ∧ s.now.pinErr = true then .failed
      else s.phase

/-- 10_state.md R23: BUSW is written by reset and by an accepted INIT8 or INIT4, and by nothing else. -/
def Obligations.BusWidthIsWrittenOnlyByInit : Prop :=
  ∀ s t : State, step s = .next t → s.now.rst = false →
    t.busw = s.busw ∨
    (s.phase = .poweringUp ∧ s.ustate = .idle ∧ s.now.opValid = true ∧
      ((upperByte s.now.opWord = 0x01#8 ∧ t.busw = .eight) ∨ (upperByte s.now.opWord = 0x02#8 ∧ t.busw = .four)))

/-- 10_state.md R24, R25: ENTRY and DISPLAY change only when one of their own mutators is accepted in READY, or by reset. -/
def Obligations.StoredModesChangeOnlyByTheirMutators : Prop :=
  ∀ s t : State, step s = .next t → s.now.rst = false →
    (t.entry ≠ s.entry → s.phase = .ready ∧ s.ustate = .idle ∧ s.now.opValid = true ∧
      upperByte s.now.opWord ∈ [0x21#8, 0x25#8]) ∧
    (t.display ≠ s.display → s.phase = .ready ∧ s.ustate = .idle ∧ s.now.opValid = true ∧
      upperByte s.now.opWord ∈ [0x20#8, 0x22#8, 0x23#8, 0x24#8])

/-- 20_memory.md R61, 10_state.md R40: LINES change only by an answered pin operation or by reset. -/
def Obligations.LinesChangeOnlyByPinOperations : Prop :=
  ∀ s t : State, step s = .next t → t.lines ≠ s.lines →
    s.now.rst = true ∨ (isPinState s.ustate = true ∧ s.now.pinAck = true)

/-- 10_state.md R33: FLT is set by every pin operation answered fail and by nothing else, cleared only by reset, and read by
nothing: two states that differ only in FLT take the same step but for FLT itself, which is the output flt_o. -/
def Obligations.FaultFlagIsStickyAndOnlyPinFailuresSetIt : Prop :=
  ∀ s t : State, step s = .next t →
    (∀ b : Bool, step { s with flt := b } = .next
      { t with flt := if s.now.rst then false else b || (isPinState s.ustate && s.now.pinAck && s.now.pinErr) }) ∧
    t.flt = (if s.now.rst then false else s.flt || (isPinState s.ustate && s.now.pinAck && s.now.pinErr)) ∧
    (outputs s).fltOut = s.flt

/-- R75, 00_scope.md section 5.3: the trace is only added to, by at most one event a cycle. That a step is a clock cycle is
the model's choice (log 1). -/
def Obligations.TheTraceGrowsByAtMostOneEvent : Prop :=
  ∀ s t : State, step s = .next t → t.trace = s.trace ∨ ∃ e, t.trace = s.trace ++ [e]

/-- 41_init_sequences.md R163: without reset SEQ_PC advances by exactly 1 in the cycle the delay after an init byte is over,
and the byte then on its way is the ROM's at the new position, unless the ROM is at its end; the first byte is the ROM's
at position 0. In no other cycle does SEQ_PC change, but for the 0 an accepted init operation writes. A delay is over in the
cycle in which TMR is at most 1 (R258); that one with TMR = 0 ends at once is the model's choice (log 15). -/
def Obligations.SequencePositionAdvancesByOne : Prop :=
  ∀ s t : State, step s = .next t → s.now.rst = false →
    (s.phase = .initialising → s.ustate = .post → s.tmr ≤ 1 →
      t.seqPc.toNat = s.seqPc.toNat + 1 ∧
      ((t.ustate = .rs ∧ romAt s.cfg s.entry s.busw t.seqPc.toNat = some t.txb) ∨
        (t.ustate = .rsp ∧ t.seqPc.toNat = romLen s.busw))) ∧
    (s.ustate = .pre → s.tmr ≤ 1 → t.ustate = .rs ∧ romAt s.cfg s.entry s.busw 0 = some t.txb) ∧
    (t.seqPc ≠ s.seqPc →
      (s.phase = .initialising ∧ s.ustate = .post ∧ s.tmr ≤ 1) ∨
      (s.phase = .poweringUp ∧ s.ustate = .idle ∧ s.now.opValid = true ∧
        (upperByte s.now.opWord = 0x01#8 ∨ upperByte s.now.opWord = 0x02#8) ∧ t.seqPc = 0#3))

/-- The output ports of R101. op_ready by R91: an admissible request word in IDLE, any word in PAYLOAD and DRAIN, nothing
elsewhere. pin_req exactly in RS, DATA, EN_HI and EN_LO, so none in IDLE, DRAIN or RSP (R247), with the kind, mask and
value of the operation (R140, R144); for RS and EN only bit 0 of the value is said, since R101 says no more (log 20).
pin_mask is 0 in every cycle that issues no DATA operation (R101); that it is 0 so in USTATE DATA with rst = 1, and that
rsp_code, the status outputs and the line outputs show the registers in a cycle with rst = 1 too, is the model's choice
(DESIGN CHOICE, log 20).
rsp_valid and rsp_code by R97, the status outputs by R34 and R33, the lines by R40. While rst = 1 there is no op_ready,
rsp_valid or pin_req (R280). -/
def Obligations.OutputsAreThoseOfTheState : Prop :=
  ∀ s : State,
    ((outputs s).opReady = true ↔ s.now.rst = false ∧
      ((s.ustate = .idle ∧ admissible s.phase (upperByte s.now.opWord) = true) ∨ s.ustate = .payload ∨
        s.ustate = .drain)) ∧
    ((outputs s).pinReq = true ↔ s.now.rst = false ∧ isPinState s.ustate = true) ∧
    ((outputs s).pinReq = true →
      (s.ustate = .rs → (outputs s).pinKind = some 0#2 ∧ ∃ v, (outputs s).pinVal = some v ∧ v.getLsbD 0 = s.txf) ∧
      (s.ustate = .data → (outputs s).pinKind = some 1#2 ∧
        (s.busw = .eight → (outputs s).pinMask = 0xFF#8 ∧ (outputs s).pinVal = some s.txb) ∧
        (s.busw = .four → s.nib = false →
          (outputs s).pinMask = 0xF0#8 ∧ (outputs s).pinVal = some (s.txb &&& 0xF0#8)) ∧
        (s.busw = .four → s.nib = true → (outputs s).pinMask = 0xF0#8 ∧ (outputs s).pinVal = some (s.txb <<< 4))) ∧
      (s.ustate = .enHi → (outputs s).pinKind = some 2#2 ∧ ∃ v, (outputs s).pinVal = some v ∧ v.getLsbD 0 = true) ∧
      (s.ustate = .enLo → (outputs s).pinKind = some 2#2 ∧ ∃ v, (outputs s).pinVal = some v ∧ v.getLsbD 0 = false)) ∧
    ((outputs s).pinReq = false ∨ s.ustate ≠ .data → (outputs s).pinMask = 0#8) ∧
    ((outputs s).rspValid = true ↔ s.now.rst = false ∧ s.ustate = .rsp) ∧
    ((outputs s).rspCode = true ↔ s.rspc = .pinFail) ∧
    ((outputs s).readyOut = true ↔ s.phase = .ready) ∧ ((outputs s).busyOut = true ↔ s.ustate ≠ .idle) ∧
    (outputs s).fltOut = s.flt ∧ (outputs s).rsOut = s.lines.rs ∧ (outputs s).enOut = s.lines.en ∧
    (outputs s).dOut = s.lines.d

/-- The parameters never change and a cycle uses up one cycle's inputs: the model's own fields (logs 2 and 3). -/
def Obligations.ParametersStayAndInputsMoveOn : Prop :=
  ∀ s t : State, step s = .next t → t.cfg = s.cfg ∧ t.inputs = s.inputs.tail

/-- The two named stops (the model's choice, log 14), each with the register values it needs: a payload word with BCNT = 0, and
an init position that is neither in the ROM nor its end. A state that meets the invariant has none of them. -/
def Obligations.TheTwoFaultsNeedUnreachableRegisters : Prop :=
  ∀ (s : State) (r : Fault), step s = .fault r →
    ((r = .burstCount ∧ (s.ustate = .payload ∨ s.ustate = .drain) ∧ s.bcnt = 0#8) ∨
      (r = .romIndex ∧ s.phase = .initialising ∧ s.ustate = .post ∧ romLen s.busw < s.seqPc.toNat + 1)) ∧
    ¬ Inv s
end

