-- ==== Sys2Proof/Laws/Decode.lean ====
section
/-! SUPPORT. Fields of words and bytes, and what the decoder and the encoder have to do with each other. -/

namespace Sys2Proof

@[simp] theorem upperByte_wordOf (hi lo : Byte) : upperByte (wordOf hi lo) = hi := by
  apply BitVec.eq_of_getLsbD_eq
  intro i h
  simp only [upperByte, wordOf, BitVec.getLsbD_extractLsb']
  rw [BitVec.getLsbD_append]
  simp [h]

@[simp] theorem lowerByte_wordOf (hi lo : Byte) : lowerByte (wordOf hi lo) = lo := by
  apply BitVec.eq_of_getLsbD_eq
  intro i h
  simp only [lowerByte, wordOf, BitVec.getLsbD_extractLsb']
  rw [BitVec.getLsbD_append]
  simp [h]

theorem wordOf_bytes (w : Word) : wordOf (upperByte w) (lowerByte w) = w := by
  apply BitVec.eq_of_getLsbD_eq
  intro i h
  simp only [upperByte, lowerByte, wordOf]
  rw [BitVec.getLsbD_append]
  simp only [BitVec.getLsbD_extractLsb']
  by_cases h8 : i < 8
  · simp [h8]
  · have h' : i - 8 < 8 := by omega
    have e : 8 + (i - 8) = i := by omega
    simp [h8, h', e]

@[simp] theorem flagBit_flagArg (r : BitVec 7) (b : Bool) : flagBit (flagArg r b) = b := by revert r b; decide

@[simp] theorem flagRest_flagArg (r : BitVec 7) (b : Bool) : flagRest (flagArg r b) = r := by revert r b; decide

theorem flagArg_parts (a : Byte) : flagArg (flagRest a) (flagBit a) = a := by revert a; decide

theorem modeArg_fields : ∀ (r : BitVec 5) (d c b : Bool),
    (modeArg r d c b).extractLsb' 3 5 = r ∧ (modeArg r d c b).getLsbD 2 = d ∧ (modeArg r d c b).getLsbD 1 = c ∧
      (modeArg r d c b).getLsbD 0 = b := by decide

theorem modeArg_parts (a : Byte) :
    modeArg (a.extractLsb' 3 5) (a.getLsbD 2) (a.getLsbD 1) (a.getLsbD 0) = a := by revert a; decide

@[simp] theorem ShiftDir.ofBit_bit (d : ShiftDir) : ShiftDir.ofBit d.bit = d := by cases d <;> rfl

@[simp] theorem ShiftDir.bit_ofBit (b : Bool) : (ShiftDir.ofBit b).bit = b := by cases b <;> rfl

@[simp] theorem CursorDir.ofBit_bit (d : CursorDir) : CursorDir.ofBit d.bit = d := by cases d <;> rfl

@[simp] theorem CursorDir.bit_ofBit (b : Bool) : (CursorDir.ofBit b).bit = b := by cases b <;> rfl

@[simp] theorem ShiftTarget.ofBit_bit (t : ShiftTarget) : ShiftTarget.ofBit t.bit = t := by cases t <;> rfl

/-- Whether a command byte, if it is one, is encoded back to itself. -/
def commandReadsBack (b : Byte) : Bool :=
  match decodeCommand b with
  | .ok i => decide (encode i = .chip false b)
  | .error _ => true

theorem commandReadsBack_all : ∀ b : Byte, commandReadsBack b = true := by decide

/-- A command byte is the word of the instruction it is read as. -/
theorem encode_of_decodeCommand {b : Byte} {i : Instr} (h : decodeCommand b = .ok i) : encode i = .chip false b := by
  have hb := commandReadsBack_all b
  simpa [commandReadsBack, h] using hb

end Sys2Proof
end

