-- ==== Sys2Proof/Laws/State.lean ====
section
/-! SUPPORT. One lemma per field per named update of the state, true by rfl. -/

namespace Sys2Proof.Machine

@[simp] theorem State.record_phase (e : Event) (s : State) : (s.record e).phase = s.phase := rfl
@[simp] theorem State.record_busw (e : Event) (s : State) : (s.record e).busw = s.busw := rfl
@[simp] theorem State.record_entry (e : Event) (s : State) : (s.record e).entry = s.entry := rfl
@[simp] theorem State.record_display (e : Event) (s : State) : (s.record e).display = s.display := rfl
@[simp] theorem State.record_seqPc (e : Event) (s : State) : (s.record e).seqPc = s.seqPc := rfl
@[simp] theorem State.record_ustate (e : Event) (s : State) : (s.record e).ustate = s.ustate := rfl
@[simp] theorem State.record_nib (e : Event) (s : State) : (s.record e).nib = s.nib := rfl
@[simp] theorem State.record_txb (e : Event) (s : State) : (s.record e).txb = s.txb := rfl
@[simp] theorem State.record_txf (e : Event) (s : State) : (s.record e).txf = s.txf := rfl
@[simp] theorem State.record_opc (e : Event) (s : State) : (s.record e).opc = s.opc := rfl
@[simp] theorem State.record_arg (e : Event) (s : State) : (s.record e).arg = s.arg := rfl
@[simp] theorem State.record_bcnt (e : Event) (s : State) : (s.record e).bcnt = s.bcnt := rfl
@[simp] theorem State.record_bfail (e : Event) (s : State) : (s.record e).bfail = s.bfail := rfl
@[simp] theorem State.record_tmr (e : Event) (s : State) : (s.record e).tmr = s.tmr := rfl
@[simp] theorem State.record_rspc (e : Event) (s : State) : (s.record e).rspc = s.rspc := rfl
@[simp] theorem State.record_flt (e : Event) (s : State) : (s.record e).flt = s.flt := rfl
@[simp] theorem State.record_lines (e : Event) (s : State) : (s.record e).lines = s.lines := rfl
@[simp] theorem State.record_chipEntry (e : Event) (s : State) : (s.record e).chipEntry = s.chipEntry := rfl
@[simp] theorem State.record_chipDisplay (e : Event) (s : State) : (s.record e).chipDisplay = s.chipDisplay := rfl
@[simp] theorem State.record_cfg (e : Event) (s : State) : (s.record e).cfg = s.cfg := rfl
@[simp] theorem State.record_inputs (e : Event) (s : State) : (s.record e).inputs = s.inputs := rfl
@[simp] theorem State.record_trace (e : Event) (s : State) : (s.record e).trace = s.trace ++ [e] := rfl
@[simp] theorem State.record_freeCtr (e : Event) (s : State) : (s.record e).freeCtr = s.freeCtr := rfl

@[simp] theorem State.latch_phase (o a x : Byte) (s : State) : (s.latch o a x).phase = s.phase := rfl
@[simp] theorem State.latch_busw (o a x : Byte) (s : State) : (s.latch o a x).busw = s.busw := rfl
@[simp] theorem State.latch_entry (o a x : Byte) (s : State) : (s.latch o a x).entry = s.entry := rfl
@[simp] theorem State.latch_display (o a x : Byte) (s : State) : (s.latch o a x).display = s.display := rfl
@[simp] theorem State.latch_seqPc (o a x : Byte) (s : State) : (s.latch o a x).seqPc = s.seqPc := rfl
@[simp] theorem State.latch_ustate (o a x : Byte) (s : State) : (s.latch o a x).ustate = s.ustate := rfl
@[simp] theorem State.latch_nib (o a x : Byte) (s : State) : (s.latch o a x).nib = s.nib := rfl
@[simp] theorem State.latch_txb (o a x : Byte) (s : State) : (s.latch o a x).txb = s.txb := rfl
@[simp] theorem State.latch_txf (o a x : Byte) (s : State) : (s.latch o a x).txf = s.txf := rfl
@[simp] theorem State.latch_opc (o a x : Byte) (s : State) : (s.latch o a x).opc = o := rfl
@[simp] theorem State.latch_arg (o a x : Byte) (s : State) : (s.latch o a x).arg = a := rfl
@[simp] theorem State.latch_bcnt (o a x : Byte) (s : State) : (s.latch o a x).bcnt = s.bcnt := rfl
@[simp] theorem State.latch_bfail (o a x : Byte) (s : State) : (s.latch o a x).bfail = s.bfail := rfl
@[simp] theorem State.latch_tmr (o a x : Byte) (s : State) : (s.latch o a x).tmr = s.tmr := rfl
@[simp] theorem State.latch_rspc (o a x : Byte) (s : State) : (s.latch o a x).rspc = s.rspc := rfl
@[simp] theorem State.latch_flt (o a x : Byte) (s : State) : (s.latch o a x).flt = s.flt := rfl
@[simp] theorem State.latch_lines (o a x : Byte) (s : State) : (s.latch o a x).lines = s.lines := rfl
@[simp] theorem State.latch_chipEntry (o a x : Byte) (s : State) : (s.latch o a x).chipEntry = s.chipEntry := rfl
@[simp] theorem State.latch_chipDisplay (o a x : Byte) (s : State) : (s.latch o a x).chipDisplay = s.chipDisplay := rfl
@[simp] theorem State.latch_cfg (o a x : Byte) (s : State) : (s.latch o a x).cfg = s.cfg := rfl
@[simp] theorem State.latch_inputs (o a x : Byte) (s : State) : (s.latch o a x).inputs = s.inputs := rfl
@[simp] theorem State.latch_trace (o a x : Byte) (s : State) : (s.latch o a x).trace = s.trace ++ [.req o x] := rfl
@[simp] theorem State.latch_freeCtr (o a x : Byte) (s : State) : (s.latch o a x).freeCtr = s.freeCtr := rfl

@[simp] theorem State.beginSend_phase (b : Byte) (f : Bool) (s : State) : (s.beginSend b f).phase = s.phase := rfl
@[simp] theorem State.beginSend_busw (b : Byte) (f : Bool) (s : State) : (s.beginSend b f).busw = s.busw := rfl
@[simp] theorem State.beginSend_entry (b : Byte) (f : Bool) (s : State) : (s.beginSend b f).entry = s.entry := rfl
@[simp] theorem State.beginSend_display (b : Byte) (f : Bool) (s : State) : (s.beginSend b f).display = s.display := rfl
@[simp] theorem State.beginSend_seqPc (b : Byte) (f : Bool) (s : State) : (s.beginSend b f).seqPc = s.seqPc := rfl
@[simp] theorem State.beginSend_ustate (b : Byte) (f : Bool) (s : State) : (s.beginSend b f).ustate = .rs := rfl
@[simp] theorem State.beginSend_nib (b : Byte) (f : Bool) (s : State) : (s.beginSend b f).nib = false := rfl
@[simp] theorem State.beginSend_txb (b : Byte) (f : Bool) (s : State) : (s.beginSend b f).txb = b := rfl
@[simp] theorem State.beginSend_txf (b : Byte) (f : Bool) (s : State) : (s.beginSend b f).txf = f := rfl
@[simp] theorem State.beginSend_opc (b : Byte) (f : Bool) (s : State) : (s.beginSend b f).opc = s.opc := rfl
@[simp] theorem State.beginSend_arg (b : Byte) (f : Bool) (s : State) : (s.beginSend b f).arg = s.arg := rfl
@[simp] theorem State.beginSend_bcnt (b : Byte) (f : Bool) (s : State) : (s.beginSend b f).bcnt = s.bcnt := rfl
@[simp] theorem State.beginSend_bfail (b : Byte) (f : Bool) (s : State) : (s.beginSend b f).bfail = s.bfail := rfl
@[simp] theorem State.beginSend_tmr (b : Byte) (f : Bool) (s : State) : (s.beginSend b f).tmr = s.tmr := rfl
@[simp] theorem State.beginSend_rspc (b : Byte) (f : Bool) (s : State) : (s.beginSend b f).rspc = s.rspc := rfl
@[simp] theorem State.beginSend_flt (b : Byte) (f : Bool) (s : State) : (s.beginSend b f).flt = s.flt := rfl
@[simp] theorem State.beginSend_lines (b : Byte) (f : Bool) (s : State) : (s.beginSend b f).lines = s.lines := rfl
@[simp] theorem State.beginSend_chipEntry (b : Byte) (f : Bool) (s : State) : (s.beginSend b f).chipEntry = s.chipEntry := rfl
@[simp] theorem State.beginSend_chipDisplay (b : Byte) (f : Bool) (s : State) : (s.beginSend b f).chipDisplay = s.chipDisplay := rfl
@[simp] theorem State.beginSend_cfg (b : Byte) (f : Bool) (s : State) : (s.beginSend b f).cfg = s.cfg := rfl
@[simp] theorem State.beginSend_inputs (b : Byte) (f : Bool) (s : State) : (s.beginSend b f).inputs = s.inputs := rfl
@[simp] theorem State.beginSend_trace (b : Byte) (f : Bool) (s : State) : (s.beginSend b f).trace = s.trace := rfl
@[simp] theorem State.beginSend_freeCtr (b : Byte) (f : Bool) (s : State) : (s.beginSend b f).freeCtr = s.freeCtr := rfl

@[simp] theorem State.enterDelay_phase (u : UState) (k : DelayKind) (s : State) : (s.enterDelay u k).phase = s.phase := rfl
@[simp] theorem State.enterDelay_busw (u : UState) (k : DelayKind) (s : State) : (s.enterDelay u k).busw = s.busw := rfl
@[simp] theorem State.enterDelay_entry (u : UState) (k : DelayKind) (s : State) : (s.enterDelay u k).entry = s.entry := rfl
@[simp] theorem State.enterDelay_display (u : UState) (k : DelayKind) (s : State) : (s.enterDelay u k).display = s.display := rfl
@[simp] theorem State.enterDelay_seqPc (u : UState) (k : DelayKind) (s : State) : (s.enterDelay u k).seqPc = s.seqPc := rfl
@[simp] theorem State.enterDelay_ustate (u : UState) (k : DelayKind) (s : State) : (s.enterDelay u k).ustate = u := rfl
@[simp] theorem State.enterDelay_nib (u : UState) (k : DelayKind) (s : State) : (s.enterDelay u k).nib = s.nib := rfl
@[simp] theorem State.enterDelay_txb (u : UState) (k : DelayKind) (s : State) : (s.enterDelay u k).txb = s.txb := rfl
@[simp] theorem State.enterDelay_txf (u : UState) (k : DelayKind) (s : State) : (s.enterDelay u k).txf = s.txf := rfl
@[simp] theorem State.enterDelay_opc (u : UState) (k : DelayKind) (s : State) : (s.enterDelay u k).opc = s.opc := rfl
@[simp] theorem State.enterDelay_arg (u : UState) (k : DelayKind) (s : State) : (s.enterDelay u k).arg = s.arg := rfl
@[simp] theorem State.enterDelay_bcnt (u : UState) (k : DelayKind) (s : State) : (s.enterDelay u k).bcnt = s.bcnt := rfl
@[simp] theorem State.enterDelay_bfail (u : UState) (k : DelayKind) (s : State) : (s.enterDelay u k).bfail = s.bfail := rfl
@[simp] theorem State.enterDelay_tmr (u : UState) (k : DelayKind) (s : State) : (s.enterDelay u k).tmr = ticksOf s.cfg k := rfl
@[simp] theorem State.enterDelay_rspc (u : UState) (k : DelayKind) (s : State) : (s.enterDelay u k).rspc = s.rspc := rfl
@[simp] theorem State.enterDelay_flt (u : UState) (k : DelayKind) (s : State) : (s.enterDelay u k).flt = s.flt := rfl
@[simp] theorem State.enterDelay_lines (u : UState) (k : DelayKind) (s : State) : (s.enterDelay u k).lines = s.lines := rfl
@[simp] theorem State.enterDelay_chipEntry (u : UState) (k : DelayKind) (s : State) : (s.enterDelay u k).chipEntry = s.chipEntry := rfl
@[simp] theorem State.enterDelay_chipDisplay (u : UState) (k : DelayKind) (s : State) : (s.enterDelay u k).chipDisplay = s.chipDisplay := rfl
@[simp] theorem State.enterDelay_cfg (u : UState) (k : DelayKind) (s : State) : (s.enterDelay u k).cfg = s.cfg := rfl
@[simp] theorem State.enterDelay_inputs (u : UState) (k : DelayKind) (s : State) : (s.enterDelay u k).inputs = s.inputs := rfl
@[simp] theorem State.enterDelay_trace (u : UState) (k : DelayKind) (s : State) : (s.enterDelay u k).trace = s.trace := rfl
@[simp] theorem State.enterDelay_freeCtr (u : UState) (k : DelayKind) (s : State) : (s.enterDelay u k).freeCtr = s.freeCtr := rfl

@[simp] theorem State.respond_phase (c : RspCode) (s : State) : (s.respond c).phase = s.phase := rfl
@[simp] theorem State.respond_busw (c : RspCode) (s : State) : (s.respond c).busw = s.busw := rfl
@[simp] theorem State.respond_entry (c : RspCode) (s : State) : (s.respond c).entry = s.entry := rfl
@[simp] theorem State.respond_display (c : RspCode) (s : State) : (s.respond c).display = s.display := rfl
@[simp] theorem State.respond_seqPc (c : RspCode) (s : State) : (s.respond c).seqPc = s.seqPc := rfl
@[simp] theorem State.respond_ustate (c : RspCode) (s : State) : (s.respond c).ustate = .rsp := rfl
@[simp] theorem State.respond_nib (c : RspCode) (s : State) : (s.respond c).nib = s.nib := rfl
@[simp] theorem State.respond_txb (c : RspCode) (s : State) : (s.respond c).txb = s.txb := rfl
@[simp] theorem State.respond_txf (c : RspCode) (s : State) : (s.respond c).txf = s.txf := rfl
@[simp] theorem State.respond_opc (c : RspCode) (s : State) : (s.respond c).opc = s.opc := rfl
@[simp] theorem State.respond_arg (c : RspCode) (s : State) : (s.respond c).arg = s.arg := rfl
@[simp] theorem State.respond_bcnt (c : RspCode) (s : State) : (s.respond c).bcnt = s.bcnt := rfl
@[simp] theorem State.respond_bfail (c : RspCode) (s : State) : (s.respond c).bfail = s.bfail := rfl
@[simp] theorem State.respond_tmr (c : RspCode) (s : State) : (s.respond c).tmr = s.tmr := rfl
@[simp] theorem State.respond_rspc (c : RspCode) (s : State) : (s.respond c).rspc = c := rfl
@[simp] theorem State.respond_flt (c : RspCode) (s : State) : (s.respond c).flt = s.flt := rfl
@[simp] theorem State.respond_lines (c : RspCode) (s : State) : (s.respond c).lines = s.lines := rfl
@[simp] theorem State.respond_chipEntry (c : RspCode) (s : State) : (s.respond c).chipEntry = s.chipEntry := rfl
@[simp] theorem State.respond_chipDisplay (c : RspCode) (s : State) : (s.respond c).chipDisplay = s.chipDisplay := rfl
@[simp] theorem State.respond_cfg (c : RspCode) (s : State) : (s.respond c).cfg = s.cfg := rfl
@[simp] theorem State.respond_inputs (c : RspCode) (s : State) : (s.respond c).inputs = s.inputs := rfl
@[simp] theorem State.respond_trace (c : RspCode) (s : State) : (s.respond c).trace = s.trace := rfl
@[simp] theorem State.respond_freeCtr (c : RspCode) (s : State) : (s.respond c).freeCtr = s.freeCtr := rfl

@[simp] theorem State.failRegisters_phase (s : State) : (s.failRegisters).phase = if s.phase = .initialising then .failed else s.phase := rfl
@[simp] theorem State.failRegisters_busw (s : State) : (s.failRegisters).busw = s.busw := rfl
@[simp] theorem State.failRegisters_entry (s : State) : (s.failRegisters).entry = s.entry := rfl
@[simp] theorem State.failRegisters_display (s : State) : (s.failRegisters).display = s.display := rfl
@[simp] theorem State.failRegisters_seqPc (s : State) : (s.failRegisters).seqPc = s.seqPc := rfl
@[simp] theorem State.failRegisters_ustate (s : State) : (s.failRegisters).ustate = if s.opc = opWriteBytes ∧ s.bcnt ≠ 0#8 then .drain else .rsp := rfl
@[simp] theorem State.failRegisters_nib (s : State) : (s.failRegisters).nib = s.nib := rfl
@[simp] theorem State.failRegisters_txb (s : State) : (s.failRegisters).txb = s.txb := rfl
@[simp] theorem State.failRegisters_txf (s : State) : (s.failRegisters).txf = s.txf := rfl
@[simp] theorem State.failRegisters_opc (s : State) : (s.failRegisters).opc = s.opc := rfl
@[simp] theorem State.failRegisters_arg (s : State) : (s.failRegisters).arg = s.arg := rfl
@[simp] theorem State.failRegisters_bcnt (s : State) : (s.failRegisters).bcnt = s.bcnt := rfl
@[simp] theorem State.failRegisters_bfail (s : State) : (s.failRegisters).bfail =
    if s.opc = opWriteBytes ∧ s.bcnt ≠ 0#8 then true else s.bfail := rfl
@[simp] theorem State.failRegisters_tmr (s : State) : (s.failRegisters).tmr = s.tmr := rfl
@[simp] theorem State.failRegisters_rspc (s : State) : (s.failRegisters).rspc = .pinFail := rfl
@[simp] theorem State.failRegisters_flt (s : State) : (s.failRegisters).flt = true := rfl
@[simp] theorem State.failRegisters_lines (s : State) : (s.failRegisters).lines = s.lines := rfl
@[simp] theorem State.failRegisters_chipEntry (s : State) : (s.failRegisters).chipEntry = s.chipEntry := rfl
@[simp] theorem State.failRegisters_chipDisplay (s : State) : (s.failRegisters).chipDisplay = s.chipDisplay := rfl
@[simp] theorem State.failRegisters_cfg (s : State) : (s.failRegisters).cfg = s.cfg := rfl
@[simp] theorem State.failRegisters_inputs (s : State) : (s.failRegisters).inputs = s.inputs := rfl
@[simp] theorem State.failRegisters_trace (s : State) : (s.failRegisters).trace = s.trace := rfl
@[simp] theorem State.failRegisters_freeCtr (s : State) : (s.failRegisters).freeCtr = s.freeCtr := rfl

@[simp] theorem State.pinFailure_phase (op : PinOp) (s : State) : (s.pinFailure op).phase = if s.phase = .initialising then .failed else s.phase := rfl
@[simp] theorem State.pinFailure_busw (op : PinOp) (s : State) : (s.pinFailure op).busw = s.busw := rfl
@[simp] theorem State.pinFailure_entry (op : PinOp) (s : State) : (s.pinFailure op).entry = s.entry := rfl
@[simp] theorem State.pinFailure_display (op : PinOp) (s : State) : (s.pinFailure op).display = s.display := rfl
@[simp] theorem State.pinFailure_seqPc (op : PinOp) (s : State) : (s.pinFailure op).seqPc = s.seqPc := rfl
@[simp] theorem State.pinFailure_ustate (op : PinOp) (s : State) : (s.pinFailure op).ustate = if s.opc = opWriteBytes ∧ s.bcnt ≠ 0#8 then .drain else .rsp := rfl
@[simp] theorem State.pinFailure_nib (op : PinOp) (s : State) : (s.pinFailure op).nib = s.nib := rfl
@[simp] theorem State.pinFailure_txb (op : PinOp) (s : State) : (s.pinFailure op).txb = s.txb := rfl
@[simp] theorem State.pinFailure_txf (op : PinOp) (s : State) : (s.pinFailure op).txf = s.txf := rfl
@[simp] theorem State.pinFailure_opc (op : PinOp) (s : State) : (s.pinFailure op).opc = s.opc := rfl
@[simp] theorem State.pinFailure_arg (op : PinOp) (s : State) : (s.pinFailure op).arg = s.arg := rfl
@[simp] theorem State.pinFailure_bcnt (op : PinOp) (s : State) : (s.pinFailure op).bcnt = s.bcnt := rfl
@[simp] theorem State.pinFailure_bfail (op : PinOp) (s : State) : (s.pinFailure op).bfail =
    if s.opc = opWriteBytes ∧ s.bcnt ≠ 0#8 then true else s.bfail := rfl
@[simp] theorem State.pinFailure_tmr (op : PinOp) (s : State) : (s.pinFailure op).tmr = s.tmr := rfl
@[simp] theorem State.pinFailure_rspc (op : PinOp) (s : State) : (s.pinFailure op).rspc = .pinFail := rfl
@[simp] theorem State.pinFailure_flt (op : PinOp) (s : State) : (s.pinFailure op).flt = true := rfl
@[simp] theorem State.pinFailure_lines (op : PinOp) (s : State) : (s.pinFailure op).lines = partialDriveLines op (Config.partialDrive s.freeCtr) s.lines := rfl
@[simp] theorem State.pinFailure_chipEntry (op : PinOp) (s : State) : (s.pinFailure op).chipEntry = s.chipEntry := rfl
@[simp] theorem State.pinFailure_chipDisplay (op : PinOp) (s : State) : (s.pinFailure op).chipDisplay = s.chipDisplay := rfl
@[simp] theorem State.pinFailure_cfg (op : PinOp) (s : State) : (s.pinFailure op).cfg = s.cfg := rfl
@[simp] theorem State.pinFailure_inputs (op : PinOp) (s : State) : (s.pinFailure op).inputs = s.inputs := rfl
@[simp] theorem State.pinFailure_trace (op : PinOp) (s : State) : (s.pinFailure op).trace = s.trace ++ [.pin op .fail] := rfl
@[simp] theorem State.pinFailure_freeCtr (op : PinOp) (s : State) : (s.pinFailure op).freeCtr = s.freeCtr + 1 := rfl

@[simp] theorem State.takeResponse_phase (s : State) : (s.takeResponse).phase = s.phase := rfl
@[simp] theorem State.takeResponse_busw (s : State) : (s.takeResponse).busw = s.busw := rfl
@[simp] theorem State.takeResponse_entry (s : State) : (s.takeResponse).entry = s.entry := rfl
@[simp] theorem State.takeResponse_display (s : State) : (s.takeResponse).display = s.display := rfl
@[simp] theorem State.takeResponse_seqPc (s : State) : (s.takeResponse).seqPc = s.seqPc := rfl
@[simp] theorem State.takeResponse_ustate (s : State) : (s.takeResponse).ustate = .idle := rfl
@[simp] theorem State.takeResponse_nib (s : State) : (s.takeResponse).nib = s.nib := rfl
@[simp] theorem State.takeResponse_txb (s : State) : (s.takeResponse).txb = s.txb := rfl
@[simp] theorem State.takeResponse_txf (s : State) : (s.takeResponse).txf = s.txf := rfl
@[simp] theorem State.takeResponse_opc (s : State) : (s.takeResponse).opc = s.opc := rfl
@[simp] theorem State.takeResponse_arg (s : State) : (s.takeResponse).arg = s.arg := rfl
@[simp] theorem State.takeResponse_bcnt (s : State) : (s.takeResponse).bcnt = s.bcnt := rfl
@[simp] theorem State.takeResponse_bfail (s : State) : (s.takeResponse).bfail = false := rfl
@[simp] theorem State.takeResponse_tmr (s : State) : (s.takeResponse).tmr = s.tmr := rfl
@[simp] theorem State.takeResponse_rspc (s : State) : (s.takeResponse).rspc = s.rspc := rfl
@[simp] theorem State.takeResponse_flt (s : State) : (s.takeResponse).flt = s.flt := rfl
@[simp] theorem State.takeResponse_lines (s : State) : (s.takeResponse).lines = s.lines := rfl
@[simp] theorem State.takeResponse_chipEntry (s : State) : (s.takeResponse).chipEntry = s.chipEntry := rfl
@[simp] theorem State.takeResponse_chipDisplay (s : State) : (s.takeResponse).chipDisplay = s.chipDisplay := rfl
@[simp] theorem State.takeResponse_cfg (s : State) : (s.takeResponse).cfg = s.cfg := rfl
@[simp] theorem State.takeResponse_inputs (s : State) : (s.takeResponse).inputs = s.inputs := rfl
@[simp] theorem State.takeResponse_trace (s : State) : (s.takeResponse).trace = s.trace ++ [.rsp s.rspc] := rfl
@[simp] theorem State.takeResponse_freeCtr (s : State) : (s.takeResponse).freeCtr = s.freeCtr := rfl

@[simp] theorem State.pinOk_phase (op : PinOp) (s : State) : (s.pinOk op).phase = s.phase := rfl
@[simp] theorem State.pinOk_busw (op : PinOp) (s : State) : (s.pinOk op).busw = s.busw := rfl
@[simp] theorem State.pinOk_entry (op : PinOp) (s : State) : (s.pinOk op).entry = s.entry := rfl
@[simp] theorem State.pinOk_display (op : PinOp) (s : State) : (s.pinOk op).display = s.display := rfl
@[simp] theorem State.pinOk_seqPc (op : PinOp) (s : State) : (s.pinOk op).seqPc = s.seqPc := rfl
@[simp] theorem State.pinOk_ustate (op : PinOp) (s : State) : (s.pinOk op).ustate = s.ustate := rfl
@[simp] theorem State.pinOk_nib (op : PinOp) (s : State) : (s.pinOk op).nib = s.nib := rfl
@[simp] theorem State.pinOk_txb (op : PinOp) (s : State) : (s.pinOk op).txb = s.txb := rfl
@[simp] theorem State.pinOk_txf (op : PinOp) (s : State) : (s.pinOk op).txf = s.txf := rfl
@[simp] theorem State.pinOk_opc (op : PinOp) (s : State) : (s.pinOk op).opc = s.opc := rfl
@[simp] theorem State.pinOk_arg (op : PinOp) (s : State) : (s.pinOk op).arg = s.arg := rfl
@[simp] theorem State.pinOk_bcnt (op : PinOp) (s : State) : (s.pinOk op).bcnt = s.bcnt := rfl
@[simp] theorem State.pinOk_bfail (op : PinOp) (s : State) : (s.pinOk op).bfail = s.bfail := rfl
@[simp] theorem State.pinOk_tmr (op : PinOp) (s : State) : (s.pinOk op).tmr = s.tmr := rfl
@[simp] theorem State.pinOk_rspc (op : PinOp) (s : State) : (s.pinOk op).rspc = s.rspc := rfl
@[simp] theorem State.pinOk_flt (op : PinOp) (s : State) : (s.pinOk op).flt = s.flt := rfl
@[simp] theorem State.pinOk_lines (op : PinOp) (s : State) : (s.pinOk op).lines = driveLines op s.lines := rfl
@[simp] theorem State.pinOk_chipEntry (op : PinOp) (s : State) : (s.pinOk op).chipEntry = s.chipEntry := rfl
@[simp] theorem State.pinOk_chipDisplay (op : PinOp) (s : State) : (s.pinOk op).chipDisplay = s.chipDisplay := rfl
@[simp] theorem State.pinOk_cfg (op : PinOp) (s : State) : (s.pinOk op).cfg = s.cfg := rfl
@[simp] theorem State.pinOk_inputs (op : PinOp) (s : State) : (s.pinOk op).inputs = s.inputs := rfl
@[simp] theorem State.pinOk_trace (op : PinOp) (s : State) : (s.pinOk op).trace = s.trace ++ [.pin op .ok] := rfl
@[simp] theorem State.pinOk_freeCtr (op : PinOp) (s : State) : (s.pinOk op).freeCtr = s.freeCtr := rfl

@[simp] theorem State.noteSent_phase (s : State) : (s.noteSent).phase = s.phase := rfl
@[simp] theorem State.noteSent_busw (s : State) : (s.noteSent).busw = s.busw := rfl
@[simp] theorem State.noteSent_entry (s : State) : (s.noteSent).entry = s.entry := rfl
@[simp] theorem State.noteSent_display (s : State) : (s.noteSent).display = s.display := rfl
@[simp] theorem State.noteSent_seqPc (s : State) : (s.noteSent).seqPc = s.seqPc := rfl
@[simp] theorem State.noteSent_ustate (s : State) : (s.noteSent).ustate = s.ustate := rfl
@[simp] theorem State.noteSent_nib (s : State) : (s.noteSent).nib = s.nib := rfl
@[simp] theorem State.noteSent_txb (s : State) : (s.noteSent).txb = s.txb := rfl
@[simp] theorem State.noteSent_txf (s : State) : (s.noteSent).txf = s.txf := rfl
@[simp] theorem State.noteSent_opc (s : State) : (s.noteSent).opc = s.opc := rfl
@[simp] theorem State.noteSent_arg (s : State) : (s.noteSent).arg = s.arg := rfl
@[simp] theorem State.noteSent_bcnt (s : State) : (s.noteSent).bcnt = s.bcnt := rfl
@[simp] theorem State.noteSent_bfail (s : State) : (s.noteSent).bfail = s.bfail := rfl
@[simp] theorem State.noteSent_tmr (s : State) : (s.noteSent).tmr = s.tmr := rfl
@[simp] theorem State.noteSent_rspc (s : State) : (s.noteSent).rspc = s.rspc := rfl
@[simp] theorem State.noteSent_flt (s : State) : (s.noteSent).flt = s.flt := rfl
@[simp] theorem State.noteSent_lines (s : State) : (s.noteSent).lines = s.lines := rfl
@[simp] theorem State.noteSent_chipEntry (s : State) : (s.noteSent).chipEntry = if sentEntryMode s then some s.txb else s.chipEntry := rfl
@[simp] theorem State.noteSent_chipDisplay (s : State) : (s.noteSent).chipDisplay = if sentDisplayMode s then some s.txb else s.chipDisplay := rfl
@[simp] theorem State.noteSent_cfg (s : State) : (s.noteSent).cfg = s.cfg := rfl
@[simp] theorem State.noteSent_inputs (s : State) : (s.noteSent).inputs = s.inputs := rfl
@[simp] theorem State.noteSent_trace (s : State) : (s.noteSent).trace = s.trace := rfl
@[simp] theorem State.noteSent_freeCtr (s : State) : (s.noteSent).freeCtr = s.freeCtr := rfl

@[simp] theorem State.endCycle_phase (s : State) : (s.endCycle).phase = s.phase := rfl
@[simp] theorem State.endCycle_busw (s : State) : (s.endCycle).busw = s.busw := rfl
@[simp] theorem State.endCycle_entry (s : State) : (s.endCycle).entry = s.entry := rfl
@[simp] theorem State.endCycle_display (s : State) : (s.endCycle).display = s.display := rfl
@[simp] theorem State.endCycle_seqPc (s : State) : (s.endCycle).seqPc = s.seqPc := rfl
@[simp] theorem State.endCycle_ustate (s : State) : (s.endCycle).ustate = s.ustate := rfl
@[simp] theorem State.endCycle_nib (s : State) : (s.endCycle).nib = s.nib := rfl
@[simp] theorem State.endCycle_txb (s : State) : (s.endCycle).txb = s.txb := rfl
@[simp] theorem State.endCycle_txf (s : State) : (s.endCycle).txf = s.txf := rfl
@[simp] theorem State.endCycle_opc (s : State) : (s.endCycle).opc = s.opc := rfl
@[simp] theorem State.endCycle_arg (s : State) : (s.endCycle).arg = s.arg := rfl
@[simp] theorem State.endCycle_bcnt (s : State) : (s.endCycle).bcnt = s.bcnt := rfl
@[simp] theorem State.endCycle_bfail (s : State) : (s.endCycle).bfail = s.bfail := rfl
@[simp] theorem State.endCycle_tmr (s : State) : (s.endCycle).tmr = s.tmr := rfl
@[simp] theorem State.endCycle_rspc (s : State) : (s.endCycle).rspc = s.rspc := rfl
@[simp] theorem State.endCycle_flt (s : State) : (s.endCycle).flt = s.flt := rfl
@[simp] theorem State.endCycle_lines (s : State) : (s.endCycle).lines = s.lines := rfl
@[simp] theorem State.endCycle_chipEntry (s : State) : (s.endCycle).chipEntry = s.chipEntry := rfl
@[simp] theorem State.endCycle_chipDisplay (s : State) : (s.endCycle).chipDisplay = s.chipDisplay := rfl
@[simp] theorem State.endCycle_cfg (s : State) : (s.endCycle).cfg = s.cfg := rfl
@[simp] theorem State.endCycle_inputs (s : State) : (s.endCycle).inputs = s.inputs.tail := rfl
@[simp] theorem State.endCycle_trace (s : State) : (s.endCycle).trace = s.trace := rfl
@[simp] theorem State.endCycle_freeCtr (s : State) : (s.endCycle).freeCtr = s.freeCtr := rfl

@[simp] theorem State.ofParams_phase (c : Params) : (State.ofParams c).phase = .poweringUp := rfl
@[simp] theorem State.ofParams_busw (c : Params) : (State.ofParams c).busw = .eight := rfl
@[simp] theorem State.ofParams_entry (c : Params) : (State.ofParams c).entry = c.entryReset := rfl
@[simp] theorem State.ofParams_display (c : Params) : (State.ofParams c).display = c.displayReset := rfl
@[simp] theorem State.ofParams_seqPc (c : Params) : (State.ofParams c).seqPc = 0#3 := rfl
@[simp] theorem State.ofParams_ustate (c : Params) : (State.ofParams c).ustate = .idle := rfl
@[simp] theorem State.ofParams_nib (c : Params) : (State.ofParams c).nib = false := rfl
@[simp] theorem State.ofParams_txb (c : Params) : (State.ofParams c).txb = 0x00#8 := rfl
@[simp] theorem State.ofParams_txf (c : Params) : (State.ofParams c).txf = false := rfl
@[simp] theorem State.ofParams_opc (c : Params) : (State.ofParams c).opc = 0x00#8 := rfl
@[simp] theorem State.ofParams_arg (c : Params) : (State.ofParams c).arg = 0x00#8 := rfl
@[simp] theorem State.ofParams_bcnt (c : Params) : (State.ofParams c).bcnt = 0x00#8 := rfl
@[simp] theorem State.ofParams_bfail (c : Params) : (State.ofParams c).bfail = false := rfl
@[simp] theorem State.ofParams_tmr (c : Params) : (State.ofParams c).tmr = 0 := rfl
@[simp] theorem State.ofParams_rspc (c : Params) : (State.ofParams c).rspc = .ok := rfl
@[simp] theorem State.ofParams_flt (c : Params) : (State.ofParams c).flt = false := rfl
@[simp] theorem State.ofParams_lines (c : Params) : (State.ofParams c).lines = ⟨false, false, 0x00#8⟩ := rfl
@[simp] theorem State.ofParams_chipEntry (c : Params) : (State.ofParams c).chipEntry = none := rfl
@[simp] theorem State.ofParams_chipDisplay (c : Params) : (State.ofParams c).chipDisplay = none := rfl
@[simp] theorem State.ofParams_cfg (c : Params) : (State.ofParams c).cfg = c := rfl
@[simp] theorem State.ofParams_inputs (c : Params) : (State.ofParams c).inputs = [] := rfl
@[simp] theorem State.ofParams_trace (c : Params) : (State.ofParams c).trace = [] := rfl
@[simp] theorem State.ofParams_freeCtr (c : Params) : (State.ofParams c).freeCtr = 0 := rfl

@[simp] theorem State.afterReset_phase (s : State) : s.afterReset.phase = .poweringUp := rfl
@[simp] theorem State.afterReset_busw (s : State) : s.afterReset.busw = .eight := rfl
@[simp] theorem State.afterReset_entry (s : State) : s.afterReset.entry = s.cfg.entryReset := rfl
@[simp] theorem State.afterReset_display (s : State) : s.afterReset.display = s.cfg.displayReset := rfl
@[simp] theorem State.afterReset_seqPc (s : State) : s.afterReset.seqPc = 0#3 := rfl
@[simp] theorem State.afterReset_ustate (s : State) : s.afterReset.ustate = .idle := rfl
@[simp] theorem State.afterReset_nib (s : State) : s.afterReset.nib = false := rfl
@[simp] theorem State.afterReset_txb (s : State) : s.afterReset.txb = 0x00#8 := rfl
@[simp] theorem State.afterReset_txf (s : State) : s.afterReset.txf = false := rfl
@[simp] theorem State.afterReset_opc (s : State) : s.afterReset.opc = 0x00#8 := rfl
@[simp] theorem State.afterReset_arg (s : State) : s.afterReset.arg = 0x00#8 := rfl
@[simp] theorem State.afterReset_bcnt (s : State) : s.afterReset.bcnt = 0x00#8 := rfl
@[simp] theorem State.afterReset_bfail (s : State) : s.afterReset.bfail = false := rfl
@[simp] theorem State.afterReset_tmr (s : State) : s.afterReset.tmr = 0 := rfl
@[simp] theorem State.afterReset_rspc (s : State) : s.afterReset.rspc = .ok := rfl
@[simp] theorem State.afterReset_flt (s : State) : s.afterReset.flt = false := rfl
@[simp] theorem State.afterReset_lines (s : State) : s.afterReset.lines = ⟨false, false, 0x00#8⟩ := rfl
@[simp] theorem State.afterReset_chipEntry (s : State) : s.afterReset.chipEntry = none := rfl
@[simp] theorem State.afterReset_chipDisplay (s : State) : s.afterReset.chipDisplay = none := rfl
@[simp] theorem State.afterReset_cfg (s : State) : s.afterReset.cfg = s.cfg := rfl
@[simp] theorem State.afterReset_inputs (s : State) : s.afterReset.inputs = s.inputs := rfl
@[simp] theorem State.afterReset_trace (s : State) : s.afterReset.trace = s.trace := rfl
@[simp] theorem State.afterReset_freeCtr (s : State) : s.afterReset.freeCtr = s.freeCtr := rfl

end Sys2Proof.Machine
end

