-- ==== Sys2Proof/Laws/Ops.lean ====
section
/-! SUPPORT. What each shared operation can do, said once. -/

namespace Sys2Proof.Machine

/-! ### Inputs -/

@[simp] theorem now_cons (s : State) (c : PortIn) (rest : List PortIn) (h : s.inputs = c :: rest) : s.now = c := by
  simp [State.now, h]

theorem now_of_nil (s : State) (h : s.inputs = []) : s.now = silentIn := by simp [State.now, h]

/-! ### Pin operations -/

theorem pinCycle_waits {op : PinOp} {f : State → State} {s : State} (h : s.now.pinAck = false) : pinCycle op f s = s := by
  simp [pinCycle, h]

theorem pinCycle_ok {op : PinOp} {f : State → State} {s : State} (h : s.now.pinAck = true) (h' : s.now.pinErr = false) :
    pinCycle op f s = f (s.pinOk op) := by
  simp [pinCycle, h, h']

theorem pinCycle_fails {op : PinOp} {f : State → State} {s : State} (h : s.now.pinAck = true) (h' : s.now.pinErr = true) :
    pinCycle op f s = s.pinFailure op := by
  simp [pinCycle, h, h']

/-- A cycle of a pin operation waits, goes on, or fails. -/
theorem pinCycle_cases (op : PinOp) (f : State → State) (s : State) :
    (s.now.pinAck = false ∧ pinCycle op f s = s) ∨
    (s.now.pinAck = true ∧ s.now.pinErr = false ∧ pinCycle op f s = f (s.pinOk op)) ∨
    (s.now.pinAck = true ∧ s.now.pinErr = true ∧ pinCycle op f s = s.pinFailure op) := by
  cases ha : s.now.pinAck
  · exact .inl ⟨rfl, pinCycle_waits ha⟩
  · cases he : s.now.pinErr
    · exact .inr (.inl ⟨rfl, rfl, pinCycle_ok ha he⟩)
    · exact .inr (.inr ⟨rfl, rfl, pinCycle_fails ha he⟩)

/-! ### Delays -/

/-- The state in a cycle of a delay, with the event of its first cycle. -/
def delayNoted (k : DelayKind) (s : State) : State := if s.tmr = ticksOf s.cfg k then s.record (.wait k) else s

theorem delayCycle_ends {k : DelayKind} {f : State → Result} {s : State} (h : s.tmr ≤ 1) :
    delayCycle k f s = f { delayNoted k s with tmr := 0 } := by
  simp [delayCycle, delayNoted, h]

theorem delayCycle_goes_on {k : DelayKind} {f : State → Result} {s : State} (h : 1 < s.tmr) :
    delayCycle k f s = .next { delayNoted k s with tmr := s.tmr - 1 } := by
  have h' : ¬ s.tmr ≤ 1 := by omega
  simp only [delayCycle, h', if_false]
  unfold delayNoted
  split <;> rfl

/-- With admissible parameters every delay lasts at least one cycle. -/
theorem ticksOf_pos {c : Params} (h : ValidParams c) (k : DelayKind) : 1 ≤ ticksOf c k := by
  have h1 := h.counts k
  unfold ticksOf ticks
  split
  · exact Nat.mul_pos h1 h.ticksPerS
  · exact Nat.mul_pos (Nat.mul_pos h1 h.longRatio) h.ticksPerS

/-- TMR's width is the smallest that holds the ticks of T_PWR (R32). -/
theorem tmrWidth_le_iff {c : Params} (h : 1 ≤ ticksOf c .pwr) (n : Nat) : tmrWidth c ≤ n ↔ ticksOf c .pwr < 2 ^ n := by
  unfold tmrWidth
  rw [Nat.succ_le_iff, Nat.log2_lt (by omega)]

theorem postDelay_congr {s t : State} (h : t.phase = s.phase) (h' : t.seqPc = s.seqPc) : postDelay t = postDelay s := by
  simp [postDelay, h, h']

/-! ### Requests -/

theorem request_taken {o a x : Byte} {f : State → State} {s : State} (h : s.ustate = .idle)
    (h' : admissible s.phase o = true) : request o a x f s = .next (f (s.latch o a x)) := by
  simp [request, h, h']

theorem request_not_taken {o a x : Byte} {f : State → State} {s : State}
    (h : s.ustate ≠ .idle ∨ admissible s.phase o = false) : request o a x f s = .next s := by
  rcases h with h | h <;> simp [request, h]

/-- A request is taken or has no effect. -/
theorem request_cases (o a x : Byte) (f : State → State) (s : State) :
    (s.ustate = .idle ∧ admissible s.phase o = true ∧ request o a x f s = .next (f (s.latch o a x))) ∨
    ((s.ustate ≠ .idle ∨ admissible s.phase o = false) ∧ request o a x f s = .next s) := by
  by_cases h : s.ustate = .idle
  · cases h' : admissible s.phase o
    · exact .inr ⟨.inr rfl, request_not_taken (.inr h')⟩
    · exact .inl ⟨h, rfl, request_taken h h'⟩
  · exact .inr ⟨.inl h, request_not_taken (.inl h)⟩

/-- In POWERING_UP exactly INIT8 and INIT4 are admissible (R93). -/
theorem admissible_poweringUp {o : Byte} : admissible .poweringUp o = true ↔ o = opInit8 ∨ o = opInit4 := by
  simp [admissible]

@[simp] theorem admissible_initialising (o : Byte) : admissible .initialising o = false := rfl

@[simp] theorem admissible_failed (o : Byte) : admissible .failed o = false := rfl

/-! ### Transmit -/

theorem transmit_begins {b : Byte} {f : Bool} {s : State} (h : s.ustate = .rs) :
    transmit b f s = .next (rsCycle { s with txb := b, txf := f }) := by
  simp [transmit, h]

theorem transmit_elsewhere {b : Byte} {f : Bool} {s : State} (h : s.ustate ≠ .rs) : transmit b f s = .next s := by
  simp [transmit, h]

/-- Where TXB and TXF are the operands already, the byte's meaning is the RS step. -/
theorem transmit_own_operands {s : State} (h : s.ustate = .rs) : transmit s.txb s.txf s = .next (rsCycle s) := by
  rw [transmit_begins h]

/-! ### Bits -/

theorem mergeBits_full (old new : Byte) : mergeBits 0xFF#8 old new = new := by
  simp only [mergeBits]
  have h : (~~~0xFF#8 : Byte) = 0#8 := by decide
  have h' : (0xFF#8 : Byte) = BitVec.allOnes 8 := by decide
  rw [h, h', BitVec.and_allOnes, BitVec.and_zero, BitVec.zero_or]

/-- Each bit of a merge comes from the new value where the mask is 1 and from the old one elsewhere. -/
theorem mergeBits_bit (mask old new : Byte) (i : Nat) (h : i < 8) :
    (mergeBits mask old new).getLsbD i = if mask.getLsbD i then new.getLsbD i else old.getLsbD i := by
  simp only [mergeBits, BitVec.getLsbD_or, BitVec.getLsbD_and, BitVec.getLsbD_not, h, decide_true, Bool.true_and]
  cases mask.getLsbD i <;> simp

/-- In 4-bit mode a data operation gives D7 to D4 the nibble and leaves D3 to D0 (R68, R132). -/
theorem mergeBits_nibble (old : Byte) (n : Nibble) :
    mergeBits 0xF0#8 old (n ++ 0b0000#4) = n ++ old.extractLsb' 0 4 := by
  apply BitVec.eq_of_getLsbD_eq
  intro i hi
  rw [mergeBits_bit _ _ _ _ hi, BitVec.getLsbD_append, BitVec.getLsbD_append]
  have h : i = 0 ∨ i = 1 ∨ i = 2 ∨ i = 3 ∨ i = 4 ∨ i = 5 ∨ i = 6 ∨ i = 7 := by omega
  rcases h with rfl | rfl | rfl | rfl | rfl | rfl | rfl | rfl <;> simp

end Sys2Proof.Machine
end

