-- ==== Sys2Proof/Laws/Step.lean ====
section
/-! SUPPORT. What a step and a run of steps can do. -/

namespace Sys2Proof.Machine

theorem step_reset {s : State} (h : s.now.rst = true) : step s = .next s.afterReset.endCycle := by simp [step, h]

theorem step_fetched {s : State} {i : Instr} (h : s.now.rst = false) (hf : fetch s = some i) :
    step s = endCycle (exec i s) := by simp [step, h, hf]

theorem step_sequence {s : State} (h : s.now.rst = false) (hf : fetch s = none) : step s = endCycle (sequence s) := by
  simp [step, h, hf]

@[simp] theorem endCycle_next (t : State) : endCycle (.next t) = .next t.endCycle := rfl

@[simp] theorem endCycle_fault (r : Fault) : endCycle (.fault r) = .fault r := rfl

@[simp] theorem endCycle_refused (r : Refusal) : endCycle (.refused r) = .refused r := rfl

theorem endCycle_eq_next {o : Result} {t : State} (h : endCycle o = .next t) : ∃ u, o = .next u ∧ t = u.endCycle := by
  cases o with
  | next u => exact ⟨u, rfl, by simpa using h.symm⟩
  | fault r => simp at h
  | refused r => simp at h

/-- The meaning of an instruction whose word is a chip byte is the beginning of that byte's Transmit. -/
theorem exec_chip {i : Instr} {f : Bool} {b : Byte} (h : encode i = .chip f b) (s : State) :
    exec i s = transmit b f s := by
  cases i <;> simp only [encode, PortWord.chip.injEq, reduceCtorEq] at h <;> obtain ⟨rfl, rfl⟩ := h <;> rfl

/-- A word read from TXF and TXB as an instruction is that instruction's own word. -/
theorem encode_of_decode_chip {i : Instr} {f : Bool} {b : Byte} (h : decode (.chip f b) = .ok i) :
    encode i = .chip f b := by
  cases f
  · exact encode_of_decodeCommand h
  · simp only [decode, Except.ok.injEq] at h
    subst h
    rfl

/-- A step in USTATE RS without reset is the RS step, whatever name TXF and TXB decode to (log 9). -/
theorem step_rs {s : State} (hr : s.now.rst = false) (h : s.ustate = .rs) : step s = .next (rsCycle s).endCycle := by
  cases hd : decode (.chip s.txf s.txb) with
  | ok i =>
    have hf : fetch s = some i := by simp [fetch, fetchWord, h, hd]
    rw [step_fetched hr hf, exec_chip (encode_of_decode_chip hd), transmit_own_operands h]
    rfl
  | error e =>
    have hf : fetch s = none := by simp [fetch, fetchWord, h, hd]
    rw [step_sequence hr hf]
    simp [sequence, h]

/-- In a state where no word is read, a step without reset is the micro-sequencer's. -/
theorem step_of_no_word {s : State} (hr : s.now.rst = false) (h : fetchWord s = none) :
    step s = endCycle (sequence s) :=
  step_sequence hr (by simp [fetch, h])

theorem step_pre {s : State} (hr : s.now.rst = false) (h : s.ustate = .pre) : step s = endCycle (preCycle s) := by
  rw [step_of_no_word hr (by simp [fetchWord, h])]; simp [sequence, h]

theorem step_data {s : State} (hr : s.now.rst = false) (h : s.ustate = .data) : step s = .next (dataCycle s).endCycle := by
  rw [step_of_no_word hr (by simp [fetchWord, h])]; simp [sequence, h]

theorem step_enHi {s : State} (hr : s.now.rst = false) (h : s.ustate = .enHi) : step s = .next (enHiCycle s).endCycle := by
  rw [step_of_no_word hr (by simp [fetchWord, h])]; simp [sequence, h]

theorem step_hold {s : State} (hr : s.now.rst = false) (h : s.ustate = .hold) : step s = endCycle (holdCycle s) := by
  rw [step_of_no_word hr (by simp [fetchWord, h])]; simp [sequence, h]

theorem step_enLo {s : State} (hr : s.now.rst = false) (h : s.ustate = .enLo) : step s = .next (enLoCycle s).endCycle := by
  rw [step_of_no_word hr (by simp [fetchWord, h])]; simp [sequence, h]

theorem step_post {s : State} (hr : s.now.rst = false) (h : s.ustate = .post) : step s = endCycle (postCycle s) := by
  rw [step_of_no_word hr (by simp [fetchWord, h])]; simp [sequence, h]

theorem step_rsp {s : State} (hr : s.now.rst = false) (h : s.ustate = .rsp) : step s = .next (rspCycle s).endCycle := by
  rw [step_of_no_word hr (by simp [fetchWord, h])]; simp [sequence, h]

/-- A step of a state where a word is taken, without reset: the word's execution, or nothing. -/
theorem step_idle {s : State} (hr : s.now.rst = false) (h : s.ustate = .idle) :
    (s.now.opValid = true ∧ ∃ i, decodeRequest s.now.opWord = .ok i ∧ step s = endCycle (exec i s)) ∨
    ((s.now.opValid = false ∨ ∃ e, decodeRequest s.now.opWord = .error e) ∧ step s = .next s.endCycle) := by
  cases hv : s.now.opValid
  · refine .inr ⟨.inl rfl, ?_⟩
    rw [step_of_no_word hr (by simp [fetchWord, h, hv])]; simp [sequence, h]
  · cases hd : decodeRequest s.now.opWord with
    | ok i => exact .inl ⟨rfl, i, rfl, step_fetched hr (by simp [fetch, fetchWord, h, hv, decode, hd])⟩
    | error e =>
      refine .inr ⟨.inr ⟨e, rfl⟩, ?_⟩
      rw [step_sequence hr (by simp [fetch, fetchWord, h, hv, decode, hd])]; simp [sequence, h]

theorem step_payload {s : State} (hr : s.now.rst = false) (h : s.ustate = .payload) :
    (s.now.opValid = true ∧ step s = endCycle (takePayload (lowerByte s.now.opWord) s)) ∨
    (s.now.opValid = false ∧ step s = .next s.endCycle) := by
  cases hv : s.now.opValid
  · refine .inr ⟨rfl, ?_⟩
    rw [step_of_no_word hr (by simp [fetchWord, h, hv])]; simp [sequence, h]
  · refine .inl ⟨rfl, ?_⟩
    rw [step_fetched (i := decodePayload s.now.opWord) hr (by simp [fetch, fetchWord, h, hv, decode])]
    simp [exec, decodePayload, execPayloadWord, h]

theorem step_drain {s : State} (hr : s.now.rst = false) (h : s.ustate = .drain) :
    (s.now.opValid = true ∧ step s = endCycle (discardPayload (lowerByte s.now.opWord) s)) ∨
    (s.now.opValid = false ∧ step s = .next s.endCycle) := by
  cases hv : s.now.opValid
  · refine .inr ⟨rfl, ?_⟩
    rw [step_of_no_word hr (by simp [fetchWord, h, hv])]; simp [sequence, h]
  · refine .inl ⟨rfl, ?_⟩
    rw [step_fetched (i := decodePayload s.now.opWord) hr (by simp [fetch, fetchWord, h, hv, decode])]
    simp [exec, decodePayload, execPayloadWord, h]

end Sys2Proof.Machine
end

