-- ==== Sys2Proof/Laws/Run.lean ====
section
/-! SUPPORT. Runs of several cycles. -/

namespace Sys2Proof.Machine

@[simp] theorem after_zero (s : State) : after 0 s = .next s := rfl

/-- A run of n + 1 cycles: one step, then n cycles. -/
theorem after_succ_eq (n : Nat) (s : State) :
    after (n + 1) s =
      match step s with
      | .next t => after n t
      | .fault r => .fault r
      | .refused r => .refused r := rfl

/-- A run goes on from the state its first step answers. -/
theorem after_succ {s t : State} (h : step s = .next t) (n : Nat) : after (n + 1) s = after n t := by
  rw [after_succ_eq, h]

theorem after_one {s t : State} (h : step s = .next t) : after 1 s = .next t := after_succ h 0

/-- Two runs, one after the other. -/
theorem after_add {m : Nat} : ∀ {s t : State}, after m s = .next t → ∀ n, after (m + n) s = after n t := by
  induction m with
  | zero =>
    intro s t h n
    simp only [after_zero, Host.Outcome.next.injEq] at h
    rw [h, Nat.zero_add]
  | succ m ih =>
    intro s t h n
    cases hs : step s with
    | next u =>
      rw [after_succ hs] at h
      rw [show m + 1 + n = (m + n) + 1 by omega, after_succ hs, ih h]
    | fault r => rw [after_succ_eq, hs] at h; simp at h
    | refused r => rw [after_succ_eq, hs] at h; simp at h

/-- The first of the cycles of `answeredAtOnce`, and the rest of the run. -/
theorem answeredAtOnce_succ {n : Nat} {s t : State} (h : step s = .next t) :
    answeredAtOnce (n + 1) s = true ↔
      s.now.rst = false ∧ (isPinState s.ustate = true → s.now.pinAck = true ∧ s.now.pinErr = false) ∧
        answeredAtOnce n t = true := by
  simp only [answeredAtOnce, h]
  cases s.now.rst <;> cases isPinState s.ustate <;> simp [and_assoc]

theorem firstIn_zero {u : UState} {s : State} (h : s.ustate = u) : firstIn u 0 s :=
  ⟨⟨s, rfl, h⟩, fun _ hm => absurd hm (Nat.not_lt_zero _)⟩

/-- A cycle in another state before the run. -/
theorem firstIn_succ {u : UState} {n : Nat} {s t : State} (h : step s = .next t) (hu : s.ustate ≠ u) (hf : firstIn u n t) :
    firstIn u (n + 1) s := by
  refine ⟨by rw [after_succ h]; exact hf.1, fun m hm => ?_⟩
  cases m with
  | zero => exact ⟨s, rfl, hu⟩
  | succ m => rw [after_succ h]; exact hf.2 m (by omega)

/-- A property every step keeps holds along a run; the run does not stop if no step does. -/
theorem after_keeps {P : State → Prop} (hP : ∀ s, P s → ∃ t, step s = .next t ∧ P t) :
    ∀ (n : Nat) (s : State), P s → ∃ t, after n s = .next t ∧ P t := by
  intro n
  induction n with
  | zero => intro s h; exact ⟨s, rfl, h⟩
  | succ n ih =>
    intro s h
    obtain ⟨u, hu, hPu⟩ := hP s h
    obtain ⟨t, ht, hPt⟩ := ih u hPu
    exact ⟨t, by rw [after_succ hu]; exact ht, hPt⟩

/-- `after` is the host's run of the machine. -/
theorem after_eq_host_run (n : Nat) (s : State) : Host.Core.run Sys2Proof.core n s = after n s := by
  induction n generalizing s with
  | zero => rfl
  | succ n ih =>
    cases hs : step s with
    | next t =>
      have h : Host.Core.run Sys2Proof.core (n + 1) s = Host.Core.run Sys2Proof.core n t := by
        simp only [Host.Core.run, Sys2Proof.core, hs]
      rw [after_succ hs]
      exact h.trans (ih t)
    | fault r =>
      have h : Host.Core.run Sys2Proof.core (n + 1) s = .fault r := by simp only [Host.Core.run, Sys2Proof.core, hs]
      rw [after_succ_eq, hs]
      exact h
    | refused r =>
      have h : Host.Core.run Sys2Proof.core (n + 1) s = .refused r := by simp only [Host.Core.run, Sys2Proof.core, hs]
      rw [after_succ_eq, hs]
      exact h

/-! ### Environments -/

@[simp] theorem serves_nil (c : Params) (ins : List PortIn) : serves c [] ins ↔ ins = [] := Iff.rfl

theorem untilCycle_append {idle done : PortIn → Prop} {next next' : List PortIn → Prop} {ins b : List PortIn}
    (h : untilCycle idle done next ins) (hn : ∀ r, next r → next' (r ++ b)) : untilCycle idle done next' (ins ++ b) := by
  obtain ⟨w, x, r, rfl, hw, hx, hd, hr⟩ := h
  exact ⟨w, x, r ++ b, by simp, hw, hx, hd, hn r hr⟩

theorem untilCycle_split {idle done : PortIn → Prop} {next : List PortIn → Prop} {next1 next2 : List PortIn → Prop}
    {ins : List PortIn} (h : untilCycle idle done next ins)
    (hn : ∀ r, next r → ∃ a b, r = a ++ b ∧ next1 a ∧ next2 b) :
    ∃ a b, ins = a ++ b ∧ untilCycle idle done next1 a ∧ next2 b := by
  obtain ⟨w, x, r, rfl, hw, hx, hd, hr⟩ := h
  obtain ⟨a, b, rfl, ha, hb⟩ := hn r hr
  exact ⟨w ++ x :: a, b, by simp, ⟨w, x, a, rfl, hw, hx, hd, ha⟩, hb⟩

/-- Inputs that serve two lists of events, one after the other, are inputs that serve the first and then the second. -/
theorem serves_append (c : Params) (es fs : List Event) (ins : List PortIn) :
    serves c (es ++ fs) ins ↔ ∃ a b, ins = a ++ b ∧ serves c es a ∧ serves c fs b := by
  induction es generalizing ins with
  | nil => simp
  | cons e es ih =>
    cases e with
    | req o x => simp [serves]
    | rsp k => simp [serves]
    | wait k =>
      constructor
      · rintro ⟨d, r, rfl, hl, hd, hr⟩
        obtain ⟨a, b, rfl, ha, hb⟩ := (ih r).mp hr
        exact ⟨d ++ a, b, by simp, ⟨d, a, rfl, hl, hd, ha⟩, hb⟩
      · rintro ⟨_, b, rfl, ⟨d, a, rfl, hl, hd, ha⟩, hb⟩
        exact ⟨d, a ++ b, by simp, hl, hd, (ih _).mpr ⟨a, b, rfl, ha, hb⟩⟩
    | pin op a =>
      exact ⟨fun h => untilCycle_split h fun r hr => (ih r).mp hr,
        fun ⟨_, b, he, h, hb⟩ => he ▸ untilCycle_append h fun r hr => (ih _).mpr ⟨r, b, rfl, hr, hb⟩⟩
    | pay v =>
      exact ⟨fun h => untilCycle_split h fun r hr => (ih r).mp hr,
        fun ⟨_, b, he, h, hb⟩ => he ▸ untilCycle_append h fun r hr => (ih _).mpr ⟨r, b, rfl, hr, hb⟩⟩
    | payDiscarded v =>
      exact ⟨fun h => untilCycle_split h fun r hr => (ih r).mp hr,
        fun ⟨_, b, he, h, hb⟩ => he ▸ untilCycle_append h fun r hr => (ih _).mpr ⟨r, b, rfl, hr, hb⟩⟩

/-- Cycles in which a state waits change nothing but the inputs. -/
theorem after_waiting {s : State} {w l : List PortIn} (hi : s.inputs = w ++ l)
    (hs : ∀ x ∈ w, ∀ r : List PortIn, step { s with inputs := x :: r } = .next { s with inputs := r }) :
    after w.length s = .next { s with inputs := l } := by
  induction w generalizing s with
  | nil => simp only [List.nil_append] at hi; rw [← hi]; rfl
  | cons x w ih =>
    have h1 : step s = .next { s with inputs := w ++ l } := by
      have h := hs x (by simp) (w ++ l)
      rw [← List.cons_append, ← hi] at h
      exact h
    rw [List.length_cons, after_succ h1]
    exact ih rfl fun y hy r => hs y (by simp [hy]) r

theorem undisturbed_head {n : Nat} {s : State} (h : undisturbed (n + 1) s.inputs) :
    s.now.rst = false ∧ s.now.rspReady = false := by
  unfold State.now
  cases hi : s.inputs with
  | nil => exact ⟨rfl, rfl⟩
  | cons c rest => exact h c (by simp [hi])

theorem undisturbed_tail {n : Nat} {ins : List PortIn} (h : undisturbed (n + 1) ins) : undisturbed n ins.tail := by
  cases ins with
  | nil => intro c hc; simp at hc
  | cons c rest => intro x hx; exact h x (by simp only [List.tail_cons] at hx; simp [hx])

/-! ### Delays -/

/-- The inputs after `m` cycles, as long as the first `n` of them are without reset. -/
theorem rst_of_drop {n m : Nat} {ins : List PortIn} (h : ∀ c ∈ ins.take n, c.rst = false) (hm : m < n) :
    ((ins.drop m).headD silentIn).rst = false := by
  cases hd : ins.drop m with
  | nil => rfl
  | cons c rest =>
    refine h c ?_
    have hm' : ins[m]? = some c := by
      have := congrArg (fun l => l[0]?) hd
      simpa using this
    rw [List.mem_take_iff_getElem]
    obtain ⟨hl, he⟩ := List.getElem?_eq_some_iff.mp hm'
    exact ⟨m, by omega, he⟩

/-- The cycles of a delay but the last: the event of the first, TMR counts down, nothing else (R258). -/
theorem delay_goes_on {k : DelayKind} {f : State → Result} {s : State}
    (hs : ∀ t : State, t.ustate = s.ustate → t.phase = s.phase → t.seqPc = s.seqPc → t.now.rst = false →
      step t = endCycle (delayCycle k f t))
    (ht : s.tmr = ticksOf s.cfg k) (hr : ∀ c ∈ s.inputs.take (ticksOf s.cfg k), c.rst = false) :
    ∀ m, m + 1 < ticksOf s.cfg k → after (m + 1) s = .next
      { s with trace := s.trace ++ [.wait k], tmr := ticksOf s.cfg k - (m + 1), inputs := s.inputs.drop (m + 1) } := by
  intro m
  induction m with
  | zero =>
    intro hm
    have h0 := hs s rfl rfl rfl (by have := rst_of_drop (m := 0) hr (by omega); simpa [State.now] using this)
    apply after_one
    rw [h0, delayCycle_goes_on (by omega)]
    simp [delayNoted, ht, State.endCycle, State.record]
  | succ m ih =>
    intro hm
    rw [after_add (ih (by omega)) 1]
    apply after_one
    rw [hs { s with trace := s.trace ++ [.wait k], tmr := ticksOf s.cfg k - (m + 1), inputs := s.inputs.drop (m + 1) } rfl rfl rfl (rst_of_drop (m := m + 1) hr (by omega)), delayCycle_goes_on (by simp; omega)]
    have hne : ticksOf s.cfg k - (m + 1) ≠ ticksOf s.cfg k := by omega
    simp [delayNoted, hne, State.endCycle, Nat.sub_sub]

/-- A delay is over after its ticks, and what follows it happens in the last of them (R258). -/
theorem delay_ends {k : DelayKind} {f : State → Result} {s : State}
    (hs : ∀ t : State, t.ustate = s.ustate → t.phase = s.phase → t.seqPc = s.seqPc → t.now.rst = false →
      step t = endCycle (delayCycle k f t))
    (hp : 1 ≤ ticksOf s.cfg k)
    (ht : s.tmr = ticksOf s.cfg k) (hr : ∀ c ∈ s.inputs.take (ticksOf s.cfg k), c.rst = false) {u : State}
    (hu : f { s with trace := s.trace ++ [.wait k], tmr := 0, inputs := s.inputs.drop (ticksOf s.cfg k - 1) } = .next u) :
    after (ticksOf s.cfg k) s = .next u.endCycle := by
  obtain ⟨n, hn⟩ : ∃ n, ticksOf s.cfg k = n + 1 := ⟨ticksOf s.cfg k - 1, by omega⟩
  cases n with
  | zero =>
    rw [hn]
    apply after_one
    rw [hs s rfl rfl rfl (by have := rst_of_drop (m := 0) hr (by omega); simpa [State.now] using this),
      delayCycle_ends (by omega)]
    simp only [delayNoted, ht, if_true, State.record]
    rw [hn] at hu
    simp only [Nat.zero_add, Nat.sub_self, List.drop_zero] at hu
    simp only [hu, endCycle]
  | succ m =>
    have h1 := delay_goes_on hs ht hr m (by omega)
    rw [hn, after_add h1 1]
    apply after_one
    rw [hs { s with trace := s.trace ++ [.wait k], tmr := ticksOf s.cfg k - (m + 1), inputs := s.inputs.drop (m + 1) } rfl rfl rfl (rst_of_drop (m := m + 1) hr (by omega)), delayCycle_ends (by simp; omega)]
    have hne : ticksOf s.cfg k - (m + 1) ≠ ticksOf s.cfg k := by omega
    simp only [delayNoted, hne, if_false]
    have e : ticksOf s.cfg k - 1 = m + 1 := by omega
    rw [e] at hu
    simp only [hu, endCycle]

end Sys2Proof.Machine
end

