-- ==== Sys2Proof/Laws/Serves.lean ====
section
/-! SUPPORT. Runs in an environment that serves a list of events: the relation Runs, how runs follow one another, and for
each kind of event the run of the one state that makes it. -/

namespace Sys2Proof.Machine

/-- From `s`, whatever inputs serve `es`, the run over them ends in `t` with those inputs used up. -/
def Runs (es : List Event) (s t : State) : Prop :=
  ∀ ins rest : List PortIn, serves s.cfg es ins → after ins.length { s with inputs := ins ++ rest } = .next { t with inputs := rest }

theorem runs_nil (s : State) : Runs [] s s := by
  rintro _ rest rfl
  rfl

theorem Runs.trans {es fs : List Event} {s t u : State} (h : Runs es s t) (hc : t.cfg = s.cfg) (h' : Runs fs t u) :
    Runs (es ++ fs) s u := by
  intro ins rest hi
  obtain ⟨a, b, rfl, ha, hb⟩ := (serves_append _ _ _ _).mp hi
  rw [List.length_append, List.append_assoc, after_add (h a (b ++ rest) ha)]
  exact h' b rest (hc ▸ hb)

/-- A run that starts with the inputs it needs. -/
theorem Runs.of_inputs {es : List Event} {s t : State} (h : Runs es s t) {ins rest : List PortIn} (hi : s.inputs = ins ++ rest)
    (hs : serves s.cfg es ins) : after ins.length s = .next { t with inputs := rest } := by
  have := h ins rest hs
  rwa [← hi] at this

/-- One cycle waited for: idle cycles change nothing, the cycle that is `done` leads on. -/
theorem after_untilCycle {idle done : PortIn → Prop} {ins rest : List PortIn} {s t : State}
    (h : untilCycle idle done (fun r => r = []) ins)
    (hw : ∀ (x : PortIn) (r : List PortIn), x.rst = false → idle x →
      step { s with inputs := x :: r } = .next { s with inputs := r })
    (hd : ∀ (x : PortIn) (r : List PortIn), x.rst = false → done x →
      step { s with inputs := x :: r } = .next { t with inputs := r }) :
    after ins.length { s with inputs := ins ++ rest } = .next { t with inputs := rest } := by
  obtain ⟨w, c, _, rfl, hi, hc, hdc, rfl⟩ := h
  rw [List.length_append]
  have h1 := after_waiting (s := { s with inputs := (w ++ [c]) ++ rest }) (w := w) (l := c :: rest) (by simp)
    fun x hx r => hw x r (hi x hx).1 (hi x hx).2
  rw [after_add h1]
  exact after_one (hd c rest hc hdc)

/-- A pin operation: after any wait, its answer. -/
theorem runs_pin {op : PinOp} {a : Answer} {f : State → State} {s t : State}
    (hs : ∀ l : List PortIn, State.now { s with inputs := l } = l.headD silentIn → (l.headD silentIn).rst = false →
      step { s with inputs := l } = .next (State.endCycle (pinCycle op f { s with inputs := l })))
    (hok : a = .ok → ∀ l : List PortIn, State.endCycle (f (State.pinOk op { s with inputs := l })) = { t with inputs := l.tail })
    (hfail : a = .fail → ∀ l : List PortIn, State.endCycle (State.pinFailure op { s with inputs := l }) = { t with inputs := l.tail }) :
    Runs [.pin op a] s t := by
  intro ins rest h
  refine after_untilCycle (idle := fun x => x.pinAck = false) (done := fun x => x.pinAck = true ∧ x.pinErr = decide (a = .fail)) h ?_ ?_
  · intro x r hx hi
    rw [hs (x :: r) rfl hx, pinCycle_waits (s := { s with inputs := x :: r }) hi]
    rfl
  · rintro x r hx ⟨ha, he⟩
    rw [hs (x :: r) rfl hx]
    cases a with
    | ok => rw [pinCycle_ok (s := { s with inputs := x :: r }) ha he]; exact congrArg _ (hok rfl (x :: r))
    | fail => rw [pinCycle_fails (s := { s with inputs := x :: r }) ha he]; exact congrArg _ (hfail rfl (x :: r))

/-- RS answered ok. -/
theorem runs_rs {s : State} (hu : s.ustate = .rs) :
    Runs [.pin (.rs s.txf) .ok] s { s.pinOk (.rs s.txf) with nib := false, ustate := .data } :=
  runs_pin (f := fun t => { t with nib := false, ustate := .data }) (fun l _ hr => step_rs (s := { s with inputs := l }) hr hu) (fun _ _ => rfl) (by simp)

/-- DATA answered ok. -/
theorem runs_data {s : State} (hu : s.ustate = .data) :
    Runs [.pin (.data (busData s.busw s.nib s.txb).1 (busData s.busw s.nib s.txb).2) .ok] s
      { s.pinOk (.data (busData s.busw s.nib s.txb).1 (busData s.busw s.nib s.txb).2) with ustate := .enHi } :=
  runs_pin (f := fun t => { t with ustate := .enHi }) (fun l _ hr => step_data (s := { s with inputs := l }) hr hu) (fun _ _ => rfl) (by simp)

/-- EN_HI answered ok. -/
theorem runs_enHi {s : State} (hu : s.ustate = .enHi) :
    Runs [.pin (.en true) .ok] s ((s.pinOk (.en true)).enterDelay .hold .hold) :=
  runs_pin (f := fun t => t.enterDelay .hold .hold) (fun l _ hr => step_enHi (s := { s with inputs := l }) hr hu) (fun _ _ => rfl) (by simp)

/-- EN_LO answered ok, with the lower nibble still to come. -/
theorem runs_enLo_nibble {s : State} (hu : s.ustate = .enLo) (hb : s.busw = .four) (hn : s.nib = false) :
    Runs [.pin (.en false) .ok] s { s.pinOk (.en false) with nib := true, ustate := .data } :=
  runs_pin (f := afterPulse) (fun l _ hr => step_enLo (s := { s with inputs := l }) hr hu)
    (fun _ l => by simp [afterPulse, hb, hn, State.endCycle]) (by simp)

/-- EN_LO answered ok, the byte being out. -/
theorem runs_enLo_byte {s : State} (hu : s.ustate = .enLo) (hb : s.busw = .eight ∨ s.nib = true) :
    Runs [.pin (.en false) .ok] s ((s.pinOk (.en false)).enterDelay .post (postDelay s)) :=
  runs_pin (f := afterPulse) (fun l _ hr => step_enLo (s := { s with inputs := l }) hr hu)
    (fun _ l => by
      have : ¬(s.busw = .four ∧ s.nib = false) := by rcases hb with h | h <;> simp [h]
      unfold afterPulse
      rw [if_neg (show ¬((State.pinOk (.en false) { s with inputs := l }).busw = .four ∧
        (State.pinOk (.en false) { s with inputs := l }).nib = false) from this)]
      rfl) (by simp)

/-- A pin operation answered fail: the exception. -/
theorem runs_fail {s : State} {op : PinOp} (hu : isPinState s.ustate = true) (ho : pinOpOf s = some op) :
    Runs [.pin op .fail] s (s.pinFailure op) := by
  cases h : s.ustate <;> rw [h] at hu <;> simp only [isPinState, Bool.false_eq_true] at hu <;>
    simp only [pinOpOf, h, Option.some.injEq] at ho <;> subst ho
  · exact runs_pin (f := fun t => { t with nib := false, ustate := .data })
      (fun l _ hr => step_rs (s := { s with inputs := l }) hr h) (by simp) (fun _ _ => rfl)
  · exact runs_pin (f := fun t => { t with ustate := .enHi })
      (fun l _ hr => step_data (s := { s with inputs := l }) hr h) (by simp) (fun _ _ => rfl)
  · exact runs_pin (f := fun t => t.enterDelay .hold .hold)
      (fun l _ hr => step_enHi (s := { s with inputs := l }) hr h) (by simp) (fun _ _ => rfl)
  · exact runs_pin (f := afterPulse) (fun l _ hr => step_enLo (s := { s with inputs := l }) hr h) (by simp) (fun _ _ => rfl)

/-- A delay just entered: its ticks pass, and what follows it happens in the last of them. -/
theorem runs_delay {k : DelayKind} {f : State → Result} {s t : State}
    (hs : ∀ x : State, x.ustate = s.ustate → x.phase = s.phase → x.seqPc = s.seqPc → x.now.rst = false →
      step x = endCycle (delayCycle k f x))
    (hp : 1 ≤ ticksOf s.cfg k) (ht : s.tmr = ticksOf s.cfg k)
    (hf : ∀ l : List PortIn, f { s with trace := s.trace ++ [.wait k], tmr := 0, inputs := l } = .next { t with inputs := l }) :
    Runs [.wait k] s t := by
  rintro _ rest ⟨d, _, rfl, hl, hd, rfl⟩
  have h := delay_ends (s := { s with inputs := d ++ rest }) hs hp ht
    (by intro c hc; rw [List.take_left' hl] at hc; exact hd c hc) (hf _)
  rw [List.append_nil, hl]
  refine h.trans ?_
  have e : ((d ++ rest).drop (ticksOf s.cfg k - 1)).tail = rest := by
    rw [List.tail_drop, show ticksOf s.cfg k - 1 + 1 = d.length by omega, List.drop_left' rfl]
  simp [State.endCycle, e]

/-- HOLD just entered. -/
theorem runs_hold {s : State} (hv : ValidParams s.cfg) (hu : s.ustate = .hold) (ht : s.tmr = ticksOf s.cfg .hold) :
    Runs [.wait .hold] s { s with ustate := .enLo, tmr := 0, trace := s.trace ++ [.wait .hold] } :=
  runs_delay (f := fun t => .next { t with ustate := .enLo }) (fun _ hx _ _ hr => step_hold hr (hx.trans hu))
    (ticksOf_pos hv .hold) ht (fun _ => rfl)

/-- POST just entered; `AfterSend()` says what follows. -/
theorem runs_post {s t : State} (hv : ValidParams s.cfg) (hu : s.ustate = .post) (ht : s.tmr = ticksOf s.cfg (postDelay s))
    (ha : ∀ l : List PortIn, afterSend { s with trace := s.trace ++ [.wait (postDelay s)], tmr := 0, inputs := l } =
      .next { t with inputs := l }) :
    Runs [.wait (postDelay s)] s t :=
  runs_delay (f := afterSend)
    (fun _ hx hp hq hr => by rw [step_post hr (hx.trans hu), postCycle, postDelay_congr hp hq])
    (ticksOf_pos hv _) ht ha

/-- PRE just entered: T_PWR, then the first byte of the ROM. -/
theorem runs_pre {s : State} {b : Byte} (hv : ValidParams s.cfg) (hu : s.ustate = .pre) (ht : s.tmr = ticksOf s.cfg .pwr)
    (hb : romAt s.cfg s.entry s.busw 0 = some b) :
    Runs [.wait .pwr] s (State.beginSend b false { s with trace := s.trace ++ [.wait .pwr], tmr := 0 }) :=
  runs_delay
    (f := fun t => match romAt t.cfg t.entry t.busw 0 with
      | some b => .next (t.beginSend b false)
      | none => .fault .romIndex)
    (fun _ hx _ _ hr => step_pre hr (hx.trans hu)) (ticksOf_pos hv .pwr) ht (fun l => by simp only [hb]; rfl)

/-- A payload word taken in PAYLOAD. -/
theorem runs_pay {s : State} (b : Byte) (hu : s.ustate = .payload) (hb : s.bcnt ≠ 0#8) :
    Runs [.pay b] s (State.beginSend b true { s with bcnt := s.bcnt - 1#8, trace := s.trace ++ [.pay b] }) := by
  intro ins rest h
  refine after_untilCycle (idle := fun x => x.opValid = false) (done := fun x => x.opValid = true ∧ lowerByte x.opWord = b) h ?_ ?_
  · intro x r hx hi
    rcases step_payload (s := { s with inputs := x :: r }) hx hu with ⟨hv, _⟩ | ⟨_, h⟩
    · exact absurd (hi.symm.trans hv) (by simp)
    · exact h
  · rintro x r hx ⟨hv, rfl⟩
    rcases step_payload (s := { s with inputs := x :: r }) hx hu with ⟨_, h⟩ | ⟨hv', _⟩
    · rw [h]
      unfold takePayload
      rw [if_neg hb]
      rfl
    · exact absurd (hv'.symm.trans hv) (by simp)

/-- A payload word discarded in DRAIN. -/
theorem runs_discard {s : State} (b : Byte) (hu : s.ustate = .drain) (hb : s.bcnt ≠ 0#8) :
    Runs [.payDiscarded b] s
      { s with bcnt := s.bcnt - 1#8, trace := s.trace ++ [.payDiscarded b],
               ustate := if s.bcnt = 1#8 then .rsp else .drain } := by
  intro ins rest h
  refine after_untilCycle (idle := fun x => x.opValid = false) (done := fun x => x.opValid = true ∧ lowerByte x.opWord = b) h ?_ ?_
  · intro x r hx hi
    rcases step_drain (s := { s with inputs := x :: r }) hx hu with ⟨hv, _⟩ | ⟨_, h⟩
    · exact absurd (hi.symm.trans hv) (by simp)
    · exact h
  · rintro x r hx ⟨hv, rfl⟩
    rcases step_drain (s := { s with inputs := x :: r }) hx hu with ⟨_, h⟩ | ⟨hv', _⟩
    · rw [h]
      unfold discardPayload
      rw [if_neg hb]
      rfl
    · exact absurd (hv'.symm.trans hv) (by simp)

end Sys2Proof.Machine
end

