-- ==== Sys2Proof/Laws/Moves.lean ====
section
/-! SUPPORT. Everything a cycle without reset can do, said once: the relation Move and the inversion of step. -/

namespace Sys2Proof.Machine

/-- The delay a delay state waits (R140). -/
def delayOf (s : State) : Option DelayKind :=
  match s.ustate with
  | .pre => some .pwr
  | .hold => some .hold
  | .post => some (postDelay s)
  | .idle | .rs | .data | .enHi | .enLo | .payload | .drain | .rsp => none

/-- The state after the last cycle of a delay, before the sequencer moves on. -/
def delayOver (k : DelayKind) (s : State) : State := { delayNoted k s with tmr := 0 }

/-- The moves of a cycle without reset, before the inputs move on: one constructor per row of R140 and per kind of word. -/
inductive Move (s : State) : State → Prop where
  /-- Nothing to do, or something to wait for: no word that is taken, no answer, no host that takes the response. -/
  | stays :
      (isPinState s.ustate = true → s.now.pinAck = false) → isDelayState s.ustate = false →
      (s.ustate = .idle → s.now.opValid = true → admissible s.phase (upperByte s.now.opWord) = false) →
      (s.ustate = .payload ∨ s.ustate = .drain → s.now.opValid = false) →
      (s.ustate = .rsp → s.now.rspReady = false) → Move s s
  | initAccepted (w : BusWidth) :
      s.ustate = .idle → s.phase = .poweringUp → s.now.opValid = true →
      upperByte s.now.opWord = (match w with | .eight => opInit8 | .four => opInit4) →
      Move s (State.enterDelay .pre .pwr
        { s.latch (upperByte s.now.opWord) (lowerByte s.now.opWord) 0#8 with
          busw := w, phase := .initialising, seqPc := 0#3 })
  | sendAccepted (x b : Byte) (f : Bool) :
      s.ustate = .idle → s.phase = .ready → s.now.opValid = true →
      upperByte s.now.opWord ∈ [opClear, opHome, opSetCursorPos, opShiftCursor, opShiftDisplay, opWriteByte] →
      Move s ((s.latch (upperByte s.now.opWord) (lowerByte s.now.opWord) x).beginSend b f)
  | entryAccepted (x : Byte) (e : EntryMode) :
      s.ustate = .idle → s.phase = .ready → s.now.opValid = true → isEntryMutator (upperByte s.now.opWord) →
      Move s (State.beginSend (encEntry s.cfg e) false
        { s.latch (upperByte s.now.opWord) (lowerByte s.now.opWord) x with entry := e })
  | displayAccepted (x : Byte) (m : DisplayMode) :
      s.ustate = .idle → s.phase = .ready → s.now.opValid = true → isDisplayMutator (upperByte s.now.opWord) →
      Move s (State.beginSend (encDisplay s.cfg m) false
        { s.latch (upperByte s.now.opWord) (lowerByte s.now.opWord) x with display := m })
  | emptyBurstAccepted :
      s.ustate = .idle → s.phase = .ready → s.now.opValid = true → upperByte s.now.opWord = opWriteBytes →
      Move s (State.respond .ok { s.latch opWriteBytes (lowerByte s.now.opWord) (lowerByte s.now.opWord) with bcnt := 0#8 })
  | burstAccepted :
      s.ustate = .idle → s.phase = .ready → s.now.opValid = true → upperByte s.now.opWord = opWriteBytes →
      lowerByte s.now.opWord ≠ 0#8 →
      Move s { s.latch opWriteBytes (lowerByte s.now.opWord) (lowerByte s.now.opWord) with
        bcnt := lowerByte s.now.opWord, ustate := .payload }
  | payloadTaken :
      s.ustate = .payload → s.now.opValid = true → s.bcnt ≠ 0#8 →
      Move s (State.beginSend (lowerByte s.now.opWord) true
        { s with bcnt := s.bcnt - 1#8, trace := s.trace ++ [.pay (lowerByte s.now.opWord)] })
  | payloadDiscarded :
      s.ustate = .drain → s.now.opValid = true → s.bcnt ≠ 0#8 →
      Move s
        { s with bcnt := s.bcnt - 1#8, trace := s.trace ++ [.payDiscarded (lowerByte s.now.opWord)],
                 ustate := if s.bcnt = 1#8 then .rsp else .drain }
  | rsOk :
      s.ustate = .rs → s.now.pinAck = true → s.now.pinErr = false →
      Move s { s.pinOk (.rs s.txf) with nib := false, ustate := .data }
  | dataOk :
      s.ustate = .data → s.now.pinAck = true → s.now.pinErr = false →
      Move s { s.pinOk (.data (busData s.busw s.nib s.txb).1 (busData s.busw s.nib s.txb).2) with ustate := .enHi }
  | enHiOk :
      s.ustate = .enHi → s.now.pinAck = true → s.now.pinErr = false →
      Move s ((s.pinOk (.en true)).enterDelay .hold .hold)
  | nibbleOk :
      s.ustate = .enLo → s.now.pinAck = true → s.now.pinErr = false → s.busw = .four → s.nib = false →
      Move s { s.pinOk (.en false) with nib := true, ustate := .data }
  | byteOk :
      s.ustate = .enLo → s.now.pinAck = true → s.now.pinErr = false → (s.busw = .eight ∨ s.nib = true) →
      Move s ((s.pinOk (.en false)).enterDelay .post (postDelay s))
  | failed (op : PinOp) :
      isPinState s.ustate = true → pinOpOf s = some op → s.now.pinAck = true → s.now.pinErr = true →
      Move s (s.pinFailure op)
  | delayGoesOn (k : DelayKind) :
      isDelayState s.ustate = true → delayOf s = some k → 1 < s.tmr →
      Move s { delayNoted k s with tmr := s.tmr - 1 }
  | firstByte (b : Byte) :
      s.ustate = .pre → s.tmr ≤ 1 → romAt s.cfg s.entry s.busw 0 = some b →
      Move s ((delayOver .pwr s).beginSend b false)
  | holdOver :
      s.ustate = .hold → s.tmr ≤ 1 → Move s { delayOver .hold s with ustate := .enLo }
  | nextInitByte (b : Byte) :
      s.ustate = .post → s.phase = .initialising → s.tmr ≤ 1 → s.seqPc.toNat + 1 ≠ romLen s.busw →
      romAt s.cfg s.entry s.busw (s.seqPc.toNat + 1) = some b →
      Move s (State.beginSend b false { (delayOver (postDelay s) s).noteSent with seqPc := s.seqPc + 1#3 })
  | initDone :
      s.ustate = .post → s.phase = .initialising → s.tmr ≤ 1 → s.seqPc.toNat + 1 = romLen s.busw →
      Move s (State.respond .ok
        { (delayOver (postDelay s) s).noteSent with seqPc := s.seqPc + 1#3, phase := .ready })
  | nextPayload :
      s.ustate = .post → s.phase ≠ .initialising → s.tmr ≤ 1 → s.opc = opWriteBytes → s.bcnt ≠ 0#8 →
      Move s { (delayOver (postDelay s) s).noteSent with ustate := .payload }
  | sendDone :
      s.ustate = .post → s.phase ≠ .initialising → s.tmr ≤ 1 → ¬(s.opc = opWriteBytes ∧ s.bcnt ≠ 0#8) →
      Move s (State.respond .ok (delayOver (postDelay s) s).noteSent)
  | responseTaken :
      s.ustate = .rsp → s.now.rspReady = true → Move s s.takeResponse

/-! ### The fields a delay does not touch -/

@[simp] theorem delayNoted_phase (k : DelayKind) (s : State) : (delayNoted k s).phase = s.phase := by
  unfold delayNoted; split <;> rfl

@[simp] theorem delayNoted_busw (k : DelayKind) (s : State) : (delayNoted k s).busw = s.busw := by
  unfold delayNoted; split <;> rfl

@[simp] theorem delayNoted_entry (k : DelayKind) (s : State) : (delayNoted k s).entry = s.entry := by
  unfold delayNoted; split <;> rfl

@[simp] theorem delayNoted_display (k : DelayKind) (s : State) : (delayNoted k s).display = s.display := by
  unfold delayNoted; split <;> rfl

@[simp] theorem delayNoted_seqPc (k : DelayKind) (s : State) : (delayNoted k s).seqPc = s.seqPc := by
  unfold delayNoted; split <;> rfl

@[simp] theorem delayNoted_ustate (k : DelayKind) (s : State) : (delayNoted k s).ustate = s.ustate := by
  unfold delayNoted; split <;> rfl

@[simp] theorem delayNoted_nib (k : DelayKind) (s : State) : (delayNoted k s).nib = s.nib := by
  unfold delayNoted; split <;> rfl

@[simp] theorem delayNoted_txb (k : DelayKind) (s : State) : (delayNoted k s).txb = s.txb := by
  unfold delayNoted; split <;> rfl

@[simp] theorem delayNoted_txf (k : DelayKind) (s : State) : (delayNoted k s).txf = s.txf := by
  unfold delayNoted; split <;> rfl

@[simp] theorem delayNoted_opc (k : DelayKind) (s : State) : (delayNoted k s).opc = s.opc := by
  unfold delayNoted; split <;> rfl

@[simp] theorem delayNoted_arg (k : DelayKind) (s : State) : (delayNoted k s).arg = s.arg := by
  unfold delayNoted; split <;> rfl

@[simp] theorem delayNoted_bcnt (k : DelayKind) (s : State) : (delayNoted k s).bcnt = s.bcnt := by
  unfold delayNoted; split <;> rfl

@[simp] theorem delayNoted_bfail (k : DelayKind) (s : State) : (delayNoted k s).bfail = s.bfail := by
  unfold delayNoted; split <;> rfl

@[simp] theorem delayNoted_tmr (k : DelayKind) (s : State) : (delayNoted k s).tmr = s.tmr := by
  unfold delayNoted; split <;> rfl

@[simp] theorem delayNoted_rspc (k : DelayKind) (s : State) : (delayNoted k s).rspc = s.rspc := by
  unfold delayNoted; split <;> rfl

@[simp] theorem delayNoted_flt (k : DelayKind) (s : State) : (delayNoted k s).flt = s.flt := by
  unfold delayNoted; split <;> rfl

@[simp] theorem delayNoted_lines (k : DelayKind) (s : State) : (delayNoted k s).lines = s.lines := by
  unfold delayNoted; split <;> rfl

@[simp] theorem delayNoted_chipEntry (k : DelayKind) (s : State) : (delayNoted k s).chipEntry = s.chipEntry := by
  unfold delayNoted; split <;> rfl

@[simp] theorem delayNoted_chipDisplay (k : DelayKind) (s : State) : (delayNoted k s).chipDisplay = s.chipDisplay := by
  unfold delayNoted; split <;> rfl

@[simp] theorem delayNoted_cfg (k : DelayKind) (s : State) : (delayNoted k s).cfg = s.cfg := by
  unfold delayNoted; split <;> rfl

@[simp] theorem delayNoted_inputs (k : DelayKind) (s : State) : (delayNoted k s).inputs = s.inputs := by
  unfold delayNoted; split <;> rfl

@[simp] theorem delayNoted_freeCtr (k : DelayKind) (s : State) : (delayNoted k s).freeCtr = s.freeCtr := by
  unfold delayNoted; split <;> rfl

@[simp] theorem delayOver_phase (k : DelayKind) (s : State) : (delayOver k s).phase = s.phase := delayNoted_phase k s

@[simp] theorem delayOver_busw (k : DelayKind) (s : State) : (delayOver k s).busw = s.busw := delayNoted_busw k s

@[simp] theorem delayOver_entry (k : DelayKind) (s : State) : (delayOver k s).entry = s.entry := delayNoted_entry k s

@[simp] theorem delayOver_display (k : DelayKind) (s : State) : (delayOver k s).display = s.display := delayNoted_display k s

@[simp] theorem delayOver_seqPc (k : DelayKind) (s : State) : (delayOver k s).seqPc = s.seqPc := delayNoted_seqPc k s

@[simp] theorem delayOver_ustate (k : DelayKind) (s : State) : (delayOver k s).ustate = s.ustate := delayNoted_ustate k s

@[simp] theorem delayOver_nib (k : DelayKind) (s : State) : (delayOver k s).nib = s.nib := delayNoted_nib k s

@[simp] theorem delayOver_txb (k : DelayKind) (s : State) : (delayOver k s).txb = s.txb := delayNoted_txb k s

@[simp] theorem delayOver_txf (k : DelayKind) (s : State) : (delayOver k s).txf = s.txf := delayNoted_txf k s

@[simp] theorem delayOver_opc (k : DelayKind) (s : State) : (delayOver k s).opc = s.opc := delayNoted_opc k s

@[simp] theorem delayOver_arg (k : DelayKind) (s : State) : (delayOver k s).arg = s.arg := delayNoted_arg k s

@[simp] theorem delayOver_bcnt (k : DelayKind) (s : State) : (delayOver k s).bcnt = s.bcnt := delayNoted_bcnt k s

@[simp] theorem delayOver_bfail (k : DelayKind) (s : State) : (delayOver k s).bfail = s.bfail := delayNoted_bfail k s

@[simp] theorem delayOver_rspc (k : DelayKind) (s : State) : (delayOver k s).rspc = s.rspc := delayNoted_rspc k s

@[simp] theorem delayOver_flt (k : DelayKind) (s : State) : (delayOver k s).flt = s.flt := delayNoted_flt k s

@[simp] theorem delayOver_lines (k : DelayKind) (s : State) : (delayOver k s).lines = s.lines := delayNoted_lines k s

@[simp] theorem delayOver_chipEntry (k : DelayKind) (s : State) : (delayOver k s).chipEntry = s.chipEntry := delayNoted_chipEntry k s

@[simp] theorem delayOver_chipDisplay (k : DelayKind) (s : State) : (delayOver k s).chipDisplay = s.chipDisplay := delayNoted_chipDisplay k s

@[simp] theorem delayOver_cfg (k : DelayKind) (s : State) : (delayOver k s).cfg = s.cfg := delayNoted_cfg k s

@[simp] theorem delayOver_inputs (k : DelayKind) (s : State) : (delayOver k s).inputs = s.inputs := delayNoted_inputs k s

@[simp] theorem delayOver_freeCtr (k : DelayKind) (s : State) : (delayOver k s).freeCtr = s.freeCtr := delayNoted_freeCtr k s

theorem delayNoted_trace (k : DelayKind) (s : State) :
    (delayNoted k s).trace = s.trace ∨ (delayNoted k s).trace = s.trace ++ [.wait k] := by
  unfold delayNoted; split
  · exact .inr rfl
  · exact .inl rfl

@[simp] theorem delayOver_tmr (k : DelayKind) (s : State) : (delayOver k s).tmr = 0 := rfl

theorem delayOver_trace (k : DelayKind) (s : State) : (delayOver k s).trace = (delayNoted k s).trace := rfl

/-! ### The inversion -/

/-- The listed opcodes: what a request word that decodes is, and what its execution is. -/
theorem exec_request {w : Word} {i : Instr} (h : decodeRequest w = .ok i) (s : State) :
    (upperByte w = opInit8 ∧ exec i s = startInit opInit8 (lowerByte w) .eight s) ∨
    (upperByte w = opInit4 ∧ exec i s = startInit opInit4 (lowerByte w) .four s) ∨
    (upperByte w ∈ [opClear, opHome, opSetCursorPos, opShiftCursor, opShiftDisplay, opWriteByte] ∧
      ∃ x b f, exec i s = singleSend (upperByte w) (lowerByte w) x b f s) ∨
    (isEntryMutator (upperByte w) ∧ ∃ x u, exec i s = mutateEntry (upperByte w) (lowerByte w) x u s) ∨
    (isDisplayMutator (upperByte w) ∧ ∃ x u, exec i s = mutateDisplay (upperByte w) (lowerByte w) x u s) ∨
    (upperByte w = opWriteBytes ∧ exec i s = startBurst opWriteBytes (lowerByte w) s) := by
  unfold decodeRequest at h
  dsimp only at h
  by_cases h0 : upperByte w = opInit8
  · rw [if_pos h0] at h
    simp only [Except.ok.injEq] at h
    subst h
    exact .inl ⟨h0, rfl⟩
  rw [if_neg h0] at h
  by_cases h1 : upperByte w = opInit4
  · rw [if_pos h1] at h
    simp only [Except.ok.injEq] at h
    subst h
    exact .inr (.inl ⟨h1, rfl⟩)
  rw [if_neg h1] at h
  by_cases h2 : upperByte w = opClear
  · rw [if_pos h2] at h
    simp only [Except.ok.injEq] at h
    subst h
    exact .inr (.inr (.inl ⟨by rw [h2]; decide, _, _, _, by rw [h2]; rfl⟩))
  rw [if_neg h2] at h
  by_cases h3 : upperByte w = opHome
  · rw [if_pos h3] at h
    simp only [Except.ok.injEq] at h
    subst h
    exact .inr (.inr (.inl ⟨by rw [h3]; decide, _, _, _, by rw [h3]; rfl⟩))
  rw [if_neg h3] at h
  by_cases h4 : upperByte w = opSetCursorPos
  · rw [if_pos h4] at h
    simp only [Except.ok.injEq] at h
    subst h
    exact .inr (.inr (.inl ⟨by rw [h4]; decide, _, _, _, by rw [h4]; rfl⟩))
  rw [if_neg h4] at h
  by_cases h5 : upperByte w = opShiftCursor
  · rw [if_pos h5] at h
    simp only [Except.ok.injEq] at h
    subst h
    exact .inr (.inr (.inl ⟨by rw [h5]; decide, _, _, _, by
      rw [h5, ← flagArg_parts (lowerByte w)]; simp only [exec, execShiftCursor, flagRest_flagArg, flagBit_flagArg, ShiftDir.bit_ofBit]; rfl⟩))
  rw [if_neg h5] at h
  by_cases h6 : upperByte w = opShiftDisplay
  · rw [if_pos h6] at h
    simp only [Except.ok.injEq] at h
    subst h
    exact .inr (.inr (.inl ⟨by rw [h6]; decide, _, _, _, by
      rw [h6, ← flagArg_parts (lowerByte w)]; simp only [exec, execShiftDisplay, flagRest_flagArg, flagBit_flagArg, ShiftDir.bit_ofBit]; rfl⟩))
  rw [if_neg h6] at h
  by_cases h7 : upperByte w = opSetDisplayMode
  · rw [if_pos h7] at h
    simp only [Except.ok.injEq] at h
    subst h
    exact .inr (.inr (.inr (.inr (.inl ⟨by rw [h7]; exact Or.inl rfl, _, _, by
      rw [h7, ← modeArg_parts (lowerByte w)]; simp only [exec, execSetDisplayMode, (modeArg_fields _ _ _ _).1, (modeArg_fields _ _ _ _).2.1, (modeArg_fields _ _ _ _).2.2.1, (modeArg_fields _ _ _ _).2.2.2]; rfl⟩))))
  rw [if_neg h7] at h
  by_cases h8 : upperByte w = opSetAutoscroll
  · rw [if_pos h8] at h
    simp only [Except.ok.injEq] at h
    subst h
    exact .inr (.inr (.inr (.inl ⟨by rw [h8]; exact Or.inl rfl, _, _, by
      rw [h8, ← flagArg_parts (lowerByte w)]; simp only [exec, execSetAutoscroll, flagRest_flagArg, flagBit_flagArg]; rfl⟩)))
  rw [if_neg h8] at h
  by_cases h9 : upperByte w = opSetCursorVisibility
  · rw [if_pos h9] at h
    simp only [Except.ok.injEq] at h
    subst h
    exact .inr (.inr (.inr (.inr (.inl ⟨by rw [h9]; exact Or.inr (.inl rfl), _, _, by
      rw [h9, ← flagArg_parts (lowerByte w)]; simp only [exec, execSetCursorVisibility, flagRest_flagArg, flagBit_flagArg]; rfl⟩))))
  rw [if_neg h9] at h
  by_cases h10 : upperByte w = opSetDisplay
  · rw [if_pos h10] at h
    simp only [Except.ok.injEq] at h
    subst h
    exact .inr (.inr (.inr (.inr (.inl ⟨by rw [h10]; exact Or.inr (.inr (.inl rfl)), _, _, by
      rw [h10, ← flagArg_parts (lowerByte w)]; simp only [exec, execSetDisplay, flagRest_flagArg, flagBit_flagArg]; rfl⟩))))
  rw [if_neg h10] at h
  by_cases h11 : upperByte w = opSetCursorBlink
  · rw [if_pos h11] at h
    simp only [Except.ok.injEq] at h
    subst h
    exact .inr (.inr (.inr (.inr (.inl ⟨by rw [h11]; exact Or.inr (.inr (.inr rfl)), _, _, by
      rw [h11, ← flagArg_parts (lowerByte w)]; simp only [exec, execSetCursorBlink, flagRest_flagArg, flagBit_flagArg]; rfl⟩))))
  rw [if_neg h11] at h
  by_cases h12 : upperByte w = opSetCursorMode
  · rw [if_pos h12] at h
    simp only [Except.ok.injEq] at h
    subst h
    exact .inr (.inr (.inr (.inl ⟨by rw [h12]; exact Or.inr rfl, _, _, by
      rw [h12, ← flagArg_parts (lowerByte w)]; simp only [exec, execSetCursorMode, flagRest_flagArg, flagBit_flagArg, CursorDir.bit_ofBit]; rfl⟩)))
  rw [if_neg h12] at h
  by_cases h13 : upperByte w = opWriteByte
  · rw [if_pos h13] at h
    simp only [Except.ok.injEq] at h
    subst h
    exact .inr (.inr (.inl ⟨by rw [h13]; decide, _, _, _, by rw [h13]; rfl⟩))
  rw [if_neg h13] at h
  by_cases h14 : upperByte w = opWriteBytes
  · rw [if_pos h14] at h
    simp only [Except.ok.injEq] at h
    subst h
    exact .inr (.inr (.inr (.inr (.inr ⟨h14, rfl⟩))))
  rw [if_neg h14] at h
  simp at h

theorem isPinState_cases {u : UState} (h : isPinState u = true) : u = .rs ∨ u = .data ∨ u = .enHi ∨ u = .enLo := by
  cases u <;> simp [isPinState] at h ⊢

/-- A cycle of a pin operation is a move. -/
theorem pin_move {s t : State} {op : PinOp} {f : State → State} (hp : pinOpOf s = some op)
    (hu : isPinState s.ustate = true) (hok : s.now.pinAck = true → s.now.pinErr = false → Move s (f (s.pinOk op)))
    (h : t = pinCycle op f s) : Move s t := by
  rcases pinCycle_cases op f s with ⟨_, h'⟩ | ⟨ha, he, h'⟩ | ⟨ha, he, h'⟩
  · rw [h, h']
    have hu' := isPinState_cases hu
    refine .stays (fun _ => ‹_›) ?_ ?_ ?_ ?_
    · rcases hu' with h | h | h | h <;> simp [h, isDelayState]
    · intro h; simp [h] at hu'
    · intro h; rcases h with h | h <;> simp [h] at hu'
    · intro h; simp [h] at hu'
  · rw [h, h']; exact hok ha he
  · rw [h, h']; exact .failed op hu hp ha he

/-- Nothing happens in IDLE without a word that is taken. -/
theorem idle_stays {s : State} (hi : s.ustate = .idle)
    (h : s.now.opValid = true → admissible s.phase (upperByte s.now.opWord) = false) : Move s s := by
  refine .stays ?_ ?_ (fun _ => h) ?_ ?_ <;> simp [hi, isPinState, isDelayState]

/-- A word that is no request has no admissible opcode (R92, R93). -/
theorem not_admissible_of_error {w : Word} {e : DecodeError} (h : decodeRequest w = .error e) (p : Phase) :
    admissible p (upperByte w) = false := by
  cases ha : admissible p (upperByte w)
  · rfl
  · exfalso
    unfold decodeRequest at h
    dsimp only at h
    cases p <;> simp only [admissible, List.contains_cons, List.contains_nil, Bool.or_false, Bool.or_eq_true, beq_iff_eq,
      Bool.false_eq_true] at ha
    · rcases ha with ha | ha <;> rw [ha] at h <;> simp [opInit8, opInit4] at h
    · rcases ha with ha | ha | ha | ha | ha | ha | ha | ha | ha | ha | ha | ha | ha <;> rw [ha] at h <;>
        simp [opInit8, opInit4, opClear, opHome, opSetCursorPos, opShiftCursor, opShiftDisplay, opSetDisplayMode,
          opSetAutoscroll, opSetCursorVisibility, opSetDisplay, opSetCursorBlink, opSetCursorMode, opWriteByte,
          opWriteBytes] at h

/-- The execution of an accepted or refused request word is a move. -/
theorem request_move {s u : State} {i : Instr} (hi : s.ustate = .idle) (hv : s.now.opValid = true)
    (hd : decodeRequest s.now.opWord = .ok i) (h : exec i s = .next u) : Move s u := by
  have key : ∀ {o a x : Byte} {f : State → State}, upperByte s.now.opWord = o → request o a x f s = .next u →
      (admissible s.phase o = true → Move s (f (s.latch o a x))) → Move s u := by
    intro o a x f ho hr hm
    rcases request_cases o a x f s with ⟨_, ha, h'⟩ | ⟨hn, h'⟩
    · rw [h'] at hr; simp only [Host.Outcome.next.injEq] at hr; exact hr ▸ hm ha
    · rw [h'] at hr
      simp only [Host.Outcome.next.injEq] at hr
      exact hr ▸ idle_stays hi (fun _ => ho ▸ hn.resolve_left (fun h => h hi))
  have ready : ∀ {o : Byte}, admissible s.phase o = true → o ≠ opInit8 → o ≠ opInit4 → s.phase = .ready := by
    intro o ha h1 h2
    cases hp : s.phase with
    | ready => rfl
    | poweringUp =>
      rw [hp] at ha
      rcases admissible_poweringUp.mp ha with h' | h'
      · exact absurd h' h1
      · exact absurd h' h2
    | initialising => rw [hp, admissible_initialising] at ha; exact absurd ha (by decide)
    | failed => rw [hp, admissible_failed] at ha; exact absurd ha (by decide)
  have powering : ∀ {o : Byte}, admissible s.phase o = true → o = opInit8 ∨ o = opInit4 → s.phase = .poweringUp := by
    intro o ha ho
    cases hp : s.phase with
    | poweringUp => rfl
    | initialising => rw [hp, admissible_initialising] at ha; exact absurd ha (by decide)
    | ready => rw [hp] at ha; rcases ho with rfl | rfl <;> exact absurd ha (by decide)
    | failed => rw [hp, admissible_failed] at ha; exact absurd ha (by decide)
  rcases exec_request hd s with ⟨ho, he⟩ | ⟨ho, he⟩ | ⟨ho, x, b, f, he⟩ | ⟨ho, x, g, he⟩ | ⟨ho, x, g, he⟩ | ⟨ho, he⟩ <;>
    rw [he] at h
  · refine key ho h fun ha => ?_
    have := Move.initAccepted .eight hi (powering ha (.inl rfl)) hv ho
    rwa [ho] at this
  · refine key ho h fun ha => ?_
    have := Move.initAccepted .four hi (powering ha (.inr rfl)) hv ho
    rwa [ho] at this
  · refine key rfl h fun ha => .sendAccepted x b f hi (ready ha ?_ ?_) hv ho
    · intro h'; rw [h'] at ho; exact absurd ho (by decide)
    · intro h'; rw [h'] at ho; exact absurd ho (by decide)
  · refine key rfl h fun ha => .entryAccepted x (g s.entry) hi (ready ha ?_ ?_) hv ho
    · intro h'; rw [h'] at ho; exact absurd ho (by unfold isEntryMutator; decide)
    · intro h'; rw [h'] at ho; exact absurd ho (by unfold isEntryMutator; decide)
  · refine key rfl h fun ha => .displayAccepted x (g s.display) hi (ready ha ?_ ?_) hv ho
    · intro h'; rw [h'] at ho; exact absurd ho (by unfold isDisplayMutator; decide)
    · intro h'; rw [h'] at ho; exact absurd ho (by unfold isDisplayMutator; decide)
  · refine key ho h fun ha => ?_
    have hp := ready ha (by decide) (by decide)
    by_cases hn : lowerByte s.now.opWord = 0#8
    · have := Move.emptyBurstAccepted hi hp hv ho
      simpa [hn] using this
    · have := Move.burstAccepted hi hp hv ho hn
      simpa [hn] using this

/-- A cycle of a delay is a move. -/
theorem delay_move {s u : State} {k : DelayKind} {f : State → Result} (hu : isDelayState s.ustate = true)
    (hk : delayOf s = some k) (hf : s.tmr ≤ 1 → ∀ v, f (delayOver k s) = .next v → Move s v)
    (h : delayCycle k f s = .next u) : Move s u := by
  by_cases ht : s.tmr ≤ 1
  · rw [delayCycle_ends ht] at h
    exact hf ht u h
  · rw [delayCycle_goes_on (by omega)] at h
    simp only [Host.Outcome.next.injEq] at h
    exact h ▸ .delayGoesOn k hu hk (by omega)

/-- The end of a send is a move. -/
theorem afterSend_move {s v : State} (hu : s.ustate = .post) (ht : s.tmr ≤ 1)
    (h : afterSend (delayOver (postDelay s) s) = .next v) : Move s v := by
  unfold afterSend at h
  by_cases hp : s.phase = .initialising
  · have hp' : (delayOver (postDelay s) s).phase = .initialising := by simpa using hp
    rw [if_pos hp'] at h
    unfold afterInitByte at h
    by_cases hl : s.seqPc.toNat + 1 = romLen s.busw
    · rw [if_pos (by simpa using hl)] at h
      simp only [Host.Outcome.next.injEq] at h
      have := Move.initDone hu hp ht hl
      rw [← h]
      simpa using this
    · rw [if_neg (by simpa using hl)] at h
      cases hr : romAt s.cfg s.entry s.busw (s.seqPc.toNat + 1) with
      | none =>
        simp only [State.noteSent_cfg, State.noteSent_entry, State.noteSent_busw, State.noteSent_seqPc, delayOver_cfg,
          delayOver_entry, delayOver_busw, delayOver_seqPc, hr] at h
        exact absurd h (by simp)
      | some b =>
        simp only [State.noteSent_cfg, State.noteSent_entry, State.noteSent_busw, State.noteSent_seqPc, delayOver_cfg,
          delayOver_entry, delayOver_busw, delayOver_seqPc, hr, Host.Outcome.next.injEq] at h
        have := Move.nextInitByte b hu hp ht hl hr
        rw [← h]
        simpa using this
  · have hp' : ¬ (delayOver (postDelay s) s).phase = .initialising := by simpa using hp
    rw [if_neg hp'] at h
    by_cases hb : s.opc = opWriteBytes ∧ s.bcnt ≠ 0#8
    · rw [if_pos (by simpa using hb)] at h
      simp only [Host.Outcome.next.injEq] at h
      exact h ▸ Move.nextPayload hu hp ht hb.1 hb.2
    · rw [if_neg (by simpa using hb)] at h
      simp only [Host.Outcome.next.injEq] at h
      exact h ▸ Move.sendDone hu hp ht hb

/-- THE INVERSION OF STEP: a cycle without reset that answers a state has made a move, and the inputs have moved on. -/
theorem step_moves {s t : State} (hr : s.now.rst = false) (h : step s = .next t) : ∃ u, Move s u ∧ t = u.endCycle := by
  have fin : ∀ {o : Result}, step s = endCycle o → (∀ u, o = .next u → Move s u) → ∃ u, Move s u ∧ t = u.endCycle := by
    intro o ho hm
    rw [ho] at h
    obtain ⟨u, hu, rfl⟩ := endCycle_eq_next h
    exact ⟨u, hm u hu, rfl⟩
  have nxt : ∀ {u : State}, step s = .next u.endCycle → Move s u → ∃ u, Move s u ∧ t = u.endCycle := by
    intro u hu hm
    rw [hu] at h
    simp only [Host.Outcome.next.injEq] at h
    exact ⟨u, hm, h.symm⟩
  cases hs : s.ustate with
  | idle =>
    rcases step_idle hr hs with ⟨hv, i, hd, he⟩ | ⟨hn, he⟩
    · exact fin he fun u hu => request_move hs hv hd hu
    · refine nxt he (idle_stays hs fun hv => ?_)
      rcases hn with hn | ⟨e, hn⟩
      · rw [hv] at hn; cases hn
      · exact not_admissible_of_error hn _
  | pre =>
    refine fin (step_pre hr hs) fun u hu => delay_move (by simp [isDelayState, hs]) (by simp [delayOf, hs]) ?_ hu
    intro ht v hv
    cases hb : romAt s.cfg s.entry s.busw 0 with
    | none => simp [hb] at hv
    | some b =>
      simp only [delayOver_cfg, delayOver_entry, delayOver_busw, hb, Host.Outcome.next.injEq] at hv
      exact hv ▸ .firstByte b hs ht hb
  | rs =>
    exact nxt (step_rs hr hs) (pin_move (by simp [pinOpOf, hs]) (by simp [isPinState, hs]) (fun ha he => .rsOk hs ha he) rfl)
  | data =>
    exact nxt (step_data hr hs)
      (pin_move (by simp [pinOpOf, hs]) (by simp [isPinState, hs]) (fun ha he => .dataOk hs ha he) rfl)
  | enHi =>
    exact nxt (step_enHi hr hs)
      (pin_move (by simp [pinOpOf, hs]) (by simp [isPinState, hs]) (fun ha he => .enHiOk hs ha he) rfl)
  | hold =>
    refine fin (step_hold hr hs) fun u hu => delay_move (by simp [isDelayState, hs]) (by simp [delayOf, hs]) ?_ hu
    intro ht v hv
    simp only [Host.Outcome.next.injEq] at hv
    exact hv ▸ .holdOver hs ht
  | enLo =>
    refine nxt (step_enLo hr hs) (pin_move (by simp [pinOpOf, hs]) (by simp [isPinState, hs]) (fun ha he => ?_) rfl)
    unfold afterPulse
    by_cases hn : s.busw = .four ∧ s.nib = false
    · rw [if_pos (by simpa using hn)]
      exact .nibbleOk hs ha he hn.1 hn.2
    · rw [if_neg (by simpa using hn)]
      refine .byteOk hs ha he ?_
      cases hb : s.busw
      · exact .inl rfl
      · cases hnb : s.nib
        · exact absurd ⟨hb, hnb⟩ hn
        · exact .inr rfl
  | post =>
    exact fin (step_post hr hs) fun u hu =>
      delay_move (by simp [isDelayState, hs]) (by simp [delayOf, hs]) (fun ht v hv => afterSend_move hs ht hv) hu
  | payload =>
    rcases step_payload hr hs with ⟨hv, he⟩ | ⟨hv, he⟩
    · refine fin he fun u hu => ?_
      unfold takePayload at hu
      by_cases hb : s.bcnt = 0#8
      · rw [if_pos hb] at hu; simp at hu
      · rw [if_neg hb] at hu
        simp only [Host.Outcome.next.injEq] at hu
        exact hu ▸ .payloadTaken hs hv hb
    · exact nxt he (.stays (by simp [hs, isPinState]) (by simp [hs, isDelayState]) (by simp [hs]) (fun _ => hv) (by simp [hs]))
  | drain =>
    rcases step_drain hr hs with ⟨hv, he⟩ | ⟨hv, he⟩
    · refine fin he fun u hu => ?_
      unfold discardPayload at hu
      by_cases hb : s.bcnt = 0#8
      · rw [if_pos hb] at hu; simp at hu
      · rw [if_neg hb] at hu
        simp only [Host.Outcome.next.injEq] at hu
        exact hu ▸ .payloadDiscarded hs hv hb
    · exact nxt he (.stays (by simp [hs, isPinState]) (by simp [hs, isDelayState]) (by simp [hs]) (fun _ => hv) (by simp [hs]))
  | rsp =>
    refine nxt (step_rsp hr hs) ?_
    unfold rspCycle
    cases hy : s.now.rspReady
    · exact .stays (by simp [hs, isPinState]) (by simp [hs, isDelayState]) (by simp [hs]) (by simp [hs]) (fun _ => hy)
    · exact .responseTaken hs hy

end Sys2Proof.Machine
end

