-- ==== Sys2Proof/Laws/PerInstr.lean ====
section
/-! SUPPORT. Statements made for every instruction, one lemma per constructor. The family CoreName: giving an instruction
the name its word is read under changes neither the word nor, a second time, the name, and makes it well-formed. -/

namespace Sys2Proof.Laws.CoreName

/-- What the name a word is read under has to do with the word. -/
def Statement (i : Instr) : Prop :=
  encode (coreName i) = encode i ∧ wellFormed (coreName i) = true ∧ (wellFormed i = true → coreName i = i)

theorem init8 (a : Byte) : Statement (.init8 a) := ⟨rfl, rfl, fun _ => rfl⟩

theorem init4 (a : Byte) : Statement (.init4 a) := ⟨rfl, rfl, fun _ => rfl⟩

theorem clear (a : Byte) : Statement (.clear a) := ⟨rfl, rfl, fun _ => rfl⟩

theorem home (a : Byte) : Statement (.home a) := ⟨rfl, rfl, fun _ => rfl⟩

theorem setCursorPos (p : Byte) : Statement (.setCursorPos p) := ⟨rfl, rfl, fun _ => rfl⟩

theorem shiftCursor (g : BitVec 7) (d : ShiftDir) : Statement (.shiftCursor g d) := ⟨rfl, rfl, fun _ => rfl⟩

theorem shiftDisplay (g : BitVec 7) (d : ShiftDir) : Statement (.shiftDisplay g d) := ⟨rfl, rfl, fun _ => rfl⟩

theorem setDisplayMode (g : BitVec 5) (d : Bool) (c : Bool) (b : Bool) : Statement (.setDisplayMode g d c b) := ⟨rfl, rfl, fun _ => rfl⟩

theorem setAutoscroll (g : BitVec 7) (e : Bool) : Statement (.setAutoscroll g e) := ⟨rfl, rfl, fun _ => rfl⟩

theorem setCursorVisibility (g : BitVec 7) (v : Bool) : Statement (.setCursorVisibility g v) := ⟨rfl, rfl, fun _ => rfl⟩

theorem setDisplay (g : BitVec 7) (o : Bool) : Statement (.setDisplay g o) := ⟨rfl, rfl, fun _ => rfl⟩

theorem setCursorBlink (g : BitVec 7) (o : Bool) : Statement (.setCursorBlink g o) := ⟨rfl, rfl, fun _ => rfl⟩

theorem setCursorMode (g : BitVec 7) (d : CursorDir) : Statement (.setCursorMode g d) := ⟨rfl, rfl, fun _ => rfl⟩

theorem writeByte (v : Byte) : Statement (.writeByte v) := ⟨rfl, rfl, fun _ => rfl⟩

theorem writeBytes (n : Byte) : Statement (.writeBytes n) := ⟨rfl, rfl, fun _ => rfl⟩

theorem payloadWord (g : Byte) (b : Byte) : Statement (.payloadWord g b) := ⟨rfl, rfl, fun _ => rfl⟩

theorem writeChar (c : Byte) : Statement (.writeChar c) := ⟨rfl, rfl, fun h => by simp [wellFormed] at h⟩

theorem writeStr (n : Byte) : Statement (.writeStr n) := ⟨rfl, rfl, fun h => by simp [wellFormed] at h⟩

theorem lcdClear : Statement .lcdClear := ⟨rfl, rfl, fun _ => rfl⟩

theorem lcdReturnHome : Statement .lcdReturnHome := ⟨rfl, rfl, fun _ => rfl⟩

theorem lcdShift (t : ShiftTarget) (d : ShiftDir) : Statement (.lcdShift t d) := ⟨rfl, rfl, fun _ => rfl⟩

theorem lcdSetDdramAddr (a : BitVec 7) : Statement (.lcdSetDdramAddr a) := ⟨rfl, rfl, fun _ => rfl⟩

theorem lcdEntryMode (d : CursorDir) (h : Bool) : Statement (.lcdEntryMode d h) := by
  unfold Statement; cases d <;> cases h <;> decide

theorem lcdDisplayMode (d : Bool) (c : Bool) (b : Bool) : Statement (.lcdDisplayMode d c b) := by
  unfold Statement; cases d <;> cases c <;> cases b <;> decide

theorem lcdInit30 : Statement .lcdInit30 := ⟨rfl, rfl, fun _ => rfl⟩

theorem lcdInit38 : Statement .lcdInit38 := ⟨rfl, rfl, fun _ => rfl⟩

theorem lcdInit33 : Statement .lcdInit33 := ⟨rfl, rfl, fun _ => rfl⟩

theorem lcdInit32 : Statement .lcdInit32 := ⟨rfl, rfl, fun _ => rfl⟩

theorem lcdInit28 : Statement .lcdInit28 := ⟨rfl, rfl, fun _ => rfl⟩

theorem lcdInit0E : Statement .lcdInit0E := ⟨rfl, rfl, fun _ => rfl⟩

theorem lcdInit07 : Statement .lcdInit07 := ⟨rfl, rfl, fun _ => rfl⟩

theorem lcdData (v : Byte) : Statement (.lcdData v) := ⟨rfl, rfl, fun _ => rfl⟩

end Sys2Proof.Laws.CoreName
end

