-- ==== Sys2Proof/Machine/HostTool.lean ====
section
/-! DEFINITION. The host-side tool of 30_encoding.md R99 and R100: names, symbols, and the expansion of an operation to
the words the host presents. It is outside the block; no step uses it. -/

namespace Sys2Proof.Machine

/-- The symbols for operand values (R99). -/
def symbolValue (name : String) : Option Byte :=
  [("Left", 0#8), ("Right", 1#8), ("Off", 0#8), ("On", 1#8), ("Invisible", 0#8), ("Visible", 1#8),
    ("Disabled", 0#8), ("Enabled", 1#8), ("Decrement", 0#8), ("Increment", 1#8)].lookup name

/-- The mnemonics with their opcodes, and the document's lower-case names as further names of them (R92, R99). -/
def opcodeOfName (name : String) : Option Byte :=
  [("INIT8", opInit8), ("INIT4", opInit4), ("CLEAR", opClear), ("HOME", opHome),
    ("SET_CURSOR_POS", opSetCursorPos), ("SHIFT_CURSOR", opShiftCursor), ("SHIFT_DISPLAY", opShiftDisplay),
    ("SET_DISPLAY_MODE", opSetDisplayMode), ("SET_AUTOSCROLL", opSetAutoscroll),
    ("SET_CURSOR_VISIBILITY", opSetCursorVisibility), ("SET_DISPLAY", opSetDisplay),
    ("SET_CURSOR_BLINK", opSetCursorBlink), ("SET_CURSOR_MODE", opSetCursorMode), ("WRITE_BYTE", opWriteByte),
    ("WRITE_BYTES", opWriteBytes), ("clear", opClear), ("reset", opHome), ("set_cursor_pos", opSetCursorPos),
    ("shift_cursor", opShiftCursor), ("shift_display", opShiftDisplay), ("set_display_mode", opSetDisplayMode),
    ("set_autoscroll", opSetAutoscroll), ("set_cursor_visibility", opSetCursorVisibility),
    ("set_display", opSetDisplay), ("set_cursor_blink", opSetCursorBlink), ("set_cursor_mode", opSetCursorMode),
    ("write_byte", opWriteByte), ("write_bytes", opWriteBytes)].lookup name

/-- One burst: the header and its payload words, for at most 255 bytes (R96, R222). DESIGN CHOICE (log 21): the upper byte of
a payload word, which may be any, is 0. -/
def burstWords (bs : List Byte) : List Word :=
  wordOf opWriteBytes (BitVec.ofNat 8 bs.length) :: bs.map (wordOf 0#8)

/-- A sequence cut into bursts of at most 255 bytes (R96, R100, R223); `fuel` bounds the number of cuts. DESIGN CHOICE (log
21): every burst but the last has 255 bytes, since the rules do not say where the cuts fall. -/
def splitBursts : Nat → List Byte → List (List Byte)
  | 0, bs => [bs]
  | fuel + 1, bs => if bs.length ≤ 255 then [bs] else bs.take 255 :: splitBursts fuel (bs.drop 255)

/-- WRITE_STR of the character codes `codes`, and WRITE_BYTES of a list (R100, R223). -/
def writeStrWords (codes : List Byte) : List Word := (splitBursts codes.length codes).flatMap burstWords

/-- WRITE_CHAR of a character with code `code` (R100, R221). -/
def writeCharWords (code : Byte) : List Word := [wordOf opWriteByte code]

/-- How many operands the line of an operation has, WRITE_BYTES apart (R99): none where arg is ignored, three for
SET_DISPLAY_MODE, else one. -/
def operandCount (op : Byte) : Nat :=
  if [opInit8, opInit4, opClear, opHome].contains op then 0
  else if op = opSetDisplayMode then 3
  else 1

/-- The arg of a line's operand values (R94, R99). DESIGN CHOICE (log 21): without operand arg is 0; a value wider than
its field is taken whole as arg, and of each operand of SET_DISPLAY_MODE bit 0 is taken. -/
def lineArg : List Byte → Byte
  | [a] => a
  | [d, c, b] => modeArg 0#5 (flagBit d) (flagBit c) (flagBit b)
  | _ => 0#8

/-- The words of one line: the opcode of its name and its operand values (R99); WRITE_BYTES takes its list, and the
pseudo-operations are expanded, their operands being character codes (R100). DESIGN CHOICE (log 21): a name that is not
listed, and a line whose operand count does not fit its operation, of which R99 says nothing, give no words. -/
def assemble (name : String) (operands : List Byte) : Option (List Word) :=
  if name = "WRITE_STR" ∨ name = "write_str" then some (writeStrWords operands)
  else if name = "WRITE_CHAR" ∨ name = "write_char" then
    match operands with
    | [c] => some (writeCharWords c)
    | _ => none
  else
    match opcodeOfName name with
    | none => none
    | some op =>
      if op = opWriteBytes then some (writeStrWords operands)
      else if operands.length = operandCount op then some [wordOf op (lineArg operands)]
      else none

end Sys2Proof.Machine
end

