-- ==== Sys2Proof/Tests/Slice0.lean ====
section
/-! SUPPORT. The model's own tests: ill-formed terms refused, words written out from the spec's encodings, vectors of
95_test_vectors.md, and for every statement with hypotheses a witness that meets them. -/

namespace Sys2Proof.Tests

open Sys2Proof Sys2Proof.Machine

/-! ### Ill-formed instructions (WellFormed) -/

theorem test_ill_formed_write_char : wellFormed (.writeChar 0x41#8) = false := by decide

theorem test_ill_formed_write_str : wellFormed (.writeStr 2#8) = false := by decide

theorem test_ill_formed_entry_mode_07 : wellFormed (.lcdEntryMode .increment true) = false := by decide

theorem test_ill_formed_display_mode_0E : wellFormed (.lcdDisplayMode true true false) = false := by decide

/-! ### Decoding: words written out bit by bit from R90, R92, R94 and R110 to R118 -/

theorem test_decode_init :
    decode (.request 0b0000_0001_0000_0000#16) = .ok (.init8 0#8) ∧
    decode (.request 0b0000_0010_0000_0000#16) = .ok (.init4 0#8) := by decide

/-- The words of V-C1, V-C2, V-C7, V-C9, V-C12. -/
theorem test_decode_fixed_commands :
    decode (.request 0b0001_0000_0000_0000#16) = .ok (.clear 0#8) ∧
    decode (.request 0b0001_0001_0000_0000#16) = .ok (.home 0#8) ∧
    decode (.request 0b0001_0010_1100_1000#16) = .ok (.setCursorPos 200#8) ∧
    decode (.request 0b0001_0011_0000_0000#16) = .ok (.shiftCursor 0#7 .left) ∧
    decode (.request 0b0001_0100_0000_0001#16) = .ok (.shiftDisplay 0#7 .right) := by decide

/-- The words of V-M2, V-M5, V-M7, V-M8, V-M9, V-M10. -/
theorem test_decode_mode_commands :
    decode (.request 0b0010_0000_0000_0101#16) = .ok (.setDisplayMode 0#5 true false true) ∧
    decode (.request 0b0010_0001_0000_0001#16) = .ok (.setAutoscroll 0#7 true) ∧
    decode (.request 0b0010_0010_0000_0000#16) = .ok (.setCursorVisibility 0#7 false) ∧
    decode (.request 0b0010_0011_0000_0000#16) = .ok (.setDisplay 0#7 false) ∧
    decode (.request 0b0010_0100_0000_0001#16) = .ok (.setCursorBlink 0#7 true) ∧
    decode (.request 0b0010_0101_0000_0000#16) = .ok (.setCursorMode 0#7 .decrement) := by decide

/-- The words of V-W3, V-W4 and V-W8; the pseudo-operations have the words of the core ones (R100). -/
theorem test_decode_data_writes :
    decode (.request 0b0011_0000_1010_0101#16) = .ok (.writeByte 0xA5#8) ∧
    decode (.request 0b0011_0001_0000_0010#16) = .ok (.writeBytes 2#8) ∧
    decode (.payload 0b1111_1111_0100_0001#16) = .ok (.payloadWord 0xFF#8 0x41#8) ∧
    encode (.writeChar 0x41#8) = .request 0b0011_0000_0100_0001#16 ∧
    encode (.writeStr 2#8) = .request 0b0011_0001_0000_0010#16 := by decide

theorem test_decode_command_bytes :
    decode (.chip false 0b0000_0001#8) = .ok .lcdClear ∧
    decode (.chip false 0b0000_0010#8) = .ok .lcdReturnHome ∧
    decode (.chip false 0b0001_0100#8) = .ok (.lcdShift .cursor .right) ∧
    decode (.chip false 0b0001_1000#8) = .ok (.lcdShift .display .left) ∧
    decode (.chip false 0b1100_1000#8) = .ok (.lcdSetDdramAddr 72#7) ∧
    decode (.chip false 0b0000_0110#8) = .ok (.lcdEntryMode .increment false) ∧
    decode (.chip false 0b0000_1011#8) = .ok (.lcdDisplayMode false true true) := by decide

theorem test_decode_init_bytes_and_data :
    decode (.chip false 0b0011_0000#8) = .ok .lcdInit30 ∧ decode (.chip false 0b0011_1000#8) = .ok .lcdInit38 ∧
    decode (.chip false 0b0011_0011#8) = .ok .lcdInit33 ∧ decode (.chip false 0b0011_0010#8) = .ok .lcdInit32 ∧
    decode (.chip false 0b0010_1000#8) = .ok .lcdInit28 ∧ decode (.chip false 0b0000_1110#8) = .ok .lcdInit0E ∧
    decode (.chip false 0b0000_0111#8) = .ok .lcdInit07 ∧ decode (.chip true 0b0000_0111#8) = .ok (.lcdData 0x07#8) := by
  decide

/-- V-I6: words that are no instruction (R98). -/
theorem test_decode_reserved :
    decode (.request 0x0000#16) = .error (.reservedOpcode 0x00#8) ∧
    decode (.request 0xFF00#16) = .error (.reservedOpcode 0xFF#8) ∧
    decode (.chip false 0x00#8) = .error (.noCommandByte 0x00#8) := by decide

/-- Bare table words: requests, a payload word, command bytes, a data byte (log 12). -/
theorem test_table_words :
    decodeTableWord 16 0x3041 = some (.writeByte 0x41#8) ∧ decodeTableWord 16 0 = some (.payloadWord 0#8 0#8) ∧
    decodeTableWord 8 0x80 = some (.lcdSetDdramAddr 0#7) ∧ decodeTableWord 8 0 = some (.lcdData 0#8) ∧
    decodeTableWord 24 0 = none := by decide

/-! ### Operands -/

/-- V-B1 to V-B7. -/
theorem test_bus_data :
    busData .eight true 0xA5#8 = (0xFF#8, 0xA5#8) ∧ busData .four false 0xA5#8 = (0xF0#8, 0xA0#8) ∧
    busData .four true 0xA5#8 = (0xF0#8, 0x50#8) ∧ busData .four false 0x0F#8 = (0xF0#8, 0x00#8) ∧
    busData .four true 0x0F#8 = (0xF0#8, 0xF0#8) ∧ busData .four false 0xFF#8 = (0xF0#8, 0xF0#8) := by decide

/-- S3 to S7 and S16. -/
theorem test_command_bytes :
    cmdSetCursorPos 200#8 = 0xC8#8 ∧ cmdSetCursorPos 72#8 = 0xC8#8 ∧ cmdSetCursorPos 127#8 = 0xFF#8 ∧
    cmdShiftCursor .right = 0b0001_0100#8 ∧ cmdShiftCursor .left = 0b0001_0000#8 ∧
    cmdShiftDisplay .right = 0b0001_1100#8 ∧ cmdShiftDisplay .left = 0b0001_1000#8 := by decide

/-- The mode bytes of 2.4 (V-M1 to V-M12) and the two the document gives (R9). -/
theorem test_default_encoders :
    encDisplay defaultParams ⟨false, false, false⟩ = 0x08#8 ∧ encDisplay defaultParams ⟨true, false, true⟩ = 0x0D#8 ∧
    encDisplay defaultParams ⟨false, true, true⟩ = 0x0B#8 ∧ encDisplay defaultParams ⟨true, true, false⟩ = 0x0E#8 ∧
    encEntry defaultParams ⟨false, .decrement⟩ = 0x04#8 ∧ encEntry defaultParams ⟨true, .decrement⟩ = 0x05#8 ∧
    encEntry defaultParams ⟨true, .increment⟩ = 0x07#8 := by decide

/-- R259 with the default parameters: 15 long units, 5 long units, 100 short units, one hold. -/
theorem test_default_ticks :
    ticksOf defaultParams .pwr = 15000 ∧ ticksOf defaultParams .fset = 5000 ∧ ticksOf defaultParams .settle = 100 ∧
    ticksOf defaultParams .hold = 1 := by decide

/-- R100: WRITE_STR "AB" is the words 0x3102, 0x0041, 0x0042 (V-W4). -/
theorem test_write_str_words : writeStrWords [0x41#8, 0x42#8] = [0x3102#16, 0x0041#16, 0x0042#16] := by decide

/-! ### States to test in -/

/-- R32: 14 bits at the defaults, which hold 15000. -/
theorem test_default_timer_width : tmrWidth defaultParams = 14 := by decide

/-- Small parameters: one tick a short unit, ten short units a long one. -/
def small : Params := { defaultParams with longRatio := 10 }

/-- After a successful INIT8, the inputs to come given. -/
def ready8 (ins : List PortIn) : State := { State.ofParams small with phase := .ready, seqPc := 5#3, inputs := ins }

/-- After a successful INIT4, the inputs to come given. -/
def ready4 (ins : List PortIn) : State :=
  { State.ofParams small with phase := .ready, busw := .four, seqPc := 7#3, nib := true, inputs := ins }

/-- Initialising on the 8-bit bus, T_PWR just begun. -/
def starting (ins : List PortIn) : State :=
  { State.ofParams small with phase := .initialising, opc := opInit8, ustate := .pre, tmr := 150, inputs := ins }

/-- In the pin state `u`, a WRITE_BYTE of 0xA5 on its way. -/
def sending (u : UState) (ins : List PortIn) : State :=
  { ready8 ins with opc := opWriteByte, txb := 0xA5#8, txf := true, ustate := u }

/-- A cycle in which the pin capability answers fail. -/
def failCycle : PortIn := { silentIn with pinAck := true, pinErr := true }

/-- A cycle of reset. -/
def rstCycle : PortIn := { silentIn with rst := true }

theorem small_valid : ValidParams small := by
  refine ⟨by decide, by decide, fun k => by cases k <;> decide, fun k => by cases k <;> decide, ?_, ?_⟩
  · rintro ⟨_ | _, _ | _⟩ ⟨_ | _, _ | _⟩ h <;> first | rfl | exact absurd h (by decide)
  · rintro ⟨_ | _, _ | _, _ | _⟩ ⟨_ | _, _ | _, _ | _⟩ h <;> first | rfl | exact absurd h (by decide)

/-- An environment that serves `es` and is slow: it answers a pin operation, and only when asked, in the second cycle, and
presents a payload word in the second cycle it is wanted. -/
def slowly (c : Params) : List Event → List PortIn
  | [] => []
  | .pin _ a :: es => silentIn :: { silentIn with pinAck := true, pinErr := decide (a = .fail) } :: slowly c es
  | .wait k :: es => List.replicate (ticksOf c k) silentIn ++ slowly c es
  | .pay b :: es => silentIn :: { silentIn with opValid := true, opWord := wordOf 0xFF#8 b } :: slowly c es
  | .payDiscarded b :: es => silentIn :: { silentIn with opValid := true, opWord := wordOf 0xFF#8 b } :: slowly c es
  | .req _ _ :: _ => []
  | .rsp _ :: _ => []

/-- The events `serves` speaks of. -/
def isInner : Event → Bool
  | .pin _ _ | .wait _ | .pay _ | .payDiscarded _ => true
  | .req _ _ | .rsp _ => false

theorem serves_slowly (c : Params) : ∀ es : List Event, (∀ e ∈ es, isInner e = true) → serves c es (slowly c es)
  | [], _ => rfl
  | .pin _ a :: es, h =>
    ⟨[silentIn], _, _, rfl, by simp [silentIn], rfl, ⟨rfl, rfl⟩, serves_slowly c es fun e he => h e (by simp [he])⟩
  | .wait k :: es, h =>
    ⟨_, _, rfl, by simp, fun x hx => by rw [List.eq_of_mem_replicate hx]; rfl,
      serves_slowly c es fun e he => h e (by simp [he])⟩
  | .pay b :: es, h =>
    ⟨[silentIn], _, _, rfl, by simp [silentIn], rfl, ⟨rfl, lowerByte_wordOf _ _⟩,
      serves_slowly c es fun e he => h e (by simp [he])⟩
  | .payDiscarded b :: es, h =>
    ⟨[silentIn], _, _, rfl, by simp [silentIn], rfl, ⟨rfl, lowerByte_wordOf _ _⟩,
      serves_slowly c es fun e he => h e (by simp [he])⟩
  | .req o x :: es, h => absurd (h (.req o x) (by simp)) (by simp [isInner])
  | .rsp k :: es, h => absurd (h (.rsp k) (by simp)) (by simp [isInner])

/-- A cycle in which the host presents a word and the pin capability answers ok. -/
def wordCycle (w : Word) : PortIn := { silentIn with opValid := true, opWord := w, pinAck := true }

/-- A cycle in which the host presents nothing and the pin capability answers ok. -/
def ackCycle : PortIn := { silentIn with pinAck := true }

/-! ### One step -/

/-- V-M2: the register and the byte. -/
theorem test_set_display_mode :
    exec (.setDisplayMode 0#5 true false true) (ready8 []) = .next
      { ready8 [] with opc := 0x20#8, arg := 0x05#8, trace := [.req 0x20#8 0x05#8], display := ⟨true, false, true⟩,
                       txb := 0x0D#8, ustate := .rs } := rfl

/-- V-M4: the unused argument bits are ignored. -/
theorem test_set_display_mode_unused_bits :
    step (ready8 [wordCycle 0x20FF#16]) = .next
      { ready8 [] with opc := 0x20#8, arg := 0xFF#8, trace := [.req 0x20#8 0x07#8], display := ⟨true, true, true⟩,
                       txb := 0x0F#8, ustate := .rs } := rfl

/-- V-W5: the empty burst. -/
theorem test_empty_burst :
    step (ready8 [wordCycle 0x3100#16]) = .next
      { ready8 [] with opc := 0x31#8, trace := [.req 0x31#8 0#8], ustate := .rsp } := rfl

/-- V-I6: CLEAR is not accepted from reset. -/
theorem test_clear_from_reset :
    step { State.reset with inputs := [wordCycle 0x1000#16] } = .next State.reset := rfl

/-- R93: INIT8 from reset (V-I1), with the default parameters. -/
theorem test_init8_from_reset :
    step { State.reset with inputs := [wordCycle 0x0100#16] } = .next
      { State.reset with phase := .initialising, opc := 0x01#8, trace := [.req 0x01#8 0#8], ustate := .pre, tmr := 15000 } := rfl

/-- V-T4: the second nibble of 0xA5 on the 4-bit bus, when LINES.D is 0xA0. -/
theorem test_second_nibble :
    step { ready4 [ackCycle] with ustate := .data, txb := 0xA5#8, lines := ⟨true, false, 0xA0#8⟩ } = .next
      { ready4 [] with ustate := .enHi, txb := 0xA5#8, lines := ⟨true, false, 0x50#8⟩,
                       trace := [.pin (.data 0xF0#8 0x50#8) .ok] } := rfl

/-- V-C15: CLEAR with the first pin operation failing; which level RS has is not fixed. -/
theorem test_failed_rs :
    ∃ l n, step { sending .rs [failCycle] with opc := opClear, txb := 0x01#8, txf := false } = .next
      { sending .rsp [] with opc := opClear, txb := 0x01#8, txf := false, flt := true, rspc := .pinFail,
                             trace := [.pin (.rs false) .fail], lines := l, freeCtr := n } := ⟨_, _, rfl⟩

/-- V-W6: 0x21 is discarded and the response comes after it. -/
theorem test_drain :
    step { ready8 [wordCycle 0x0021#16] with ustate := .drain, opc := 0x31#8, bcnt := 1#8, bfail := true } = .next
      { ready8 [] with ustate := .rsp, opc := 0x31#8, bcnt := 0#8, bfail := true, trace := [.payDiscarded 0x21#8] } := rfl

/-- V-W7: the only byte of a burst fails; the response comes at once, with no drain, and BFAIL is not written (R140). -/
theorem test_last_byte_fails :
    ∃ t, step { sending .rs [failCycle] with opc := 0x31#8, bcnt := 0#8 } = .next t ∧ t.ustate = .rsp ∧
      t.rspc = .pinFail ∧ t.bfail = false ∧ t.trace = [.pin (.rs true) .fail] := ⟨_, rfl, rfl, rfl, rfl, rfl⟩

/-- V-W6: the second byte of a burst of three fails; BFAIL is set and the block drains. -/
theorem test_burst_fails :
    ∃ t, step { sending .enHi [failCycle] with opc := 0x31#8, bcnt := 1#8 } = .next t ∧ t.ustate = .drain ∧
      t.bfail = true ∧ t.phase = .ready := ⟨_, rfl, rfl, rfl, rfl⟩

/-- V-R2: reset in mid-operation. -/
theorem test_reset_in_mid_operation :
    step { sending .hold [rstCycle] with lines := ⟨true, true, 0x41#8⟩ } = .next (State.ofParams small) := rfl

/-- R140: after the second byte of ROM8 (0x38) comes the third (0x0E), and SEQ_PC is 2. -/
theorem test_next_init_byte :
    step { starting [] with ustate := .post, tmr := 1, seqPc := 1#3, txb := 0x38#8 } = .next
      { starting [] with ustate := .rs, tmr := 0, seqPc := 2#3, txb := 0x0E#8 } := rfl

/-- A table word placed where the next step fetches it runs as the first instruction after reset. -/
theorem test_with_fetch_word_request :
    fetch (State.reset.withFetchWord 16 0x1000) = some (.clear 0#8) ∧
    step (State.reset.withFetchWord 16 0x1000) = endCycle (exec (.clear 0#8) (State.reset.withFetchWord 16 0x1000)) := ⟨rfl, rfl⟩

theorem test_with_fetch_word_chip_byte :
    fetch (State.reset.withFetchWord 8 0x38) = some .lcdInit38 ∧
    step (State.reset.withFetchWord 8 0x38) = endCycle (exec .lcdInit38 (State.reset.withFetchWord 8 0x38)) := ⟨rfl, rfl⟩

/-- 95_test_vectors.md V-C1 and V-M3, a burst (R96), and a line whose operand does not fit (log 21). -/
theorem test_assemble :
    assemble "CLEAR" [] = some [0x1000#16] ∧ assemble "SET_DISPLAY_MODE" [1#8, 1#8, 1#8] = some [0x2007#16] ∧
    assemble "write_str" [0x41#8, 0x42#8] = some [0x3102#16, 0x0041#16, 0x0042#16] ∧
    assemble "SHIFT_CURSOR" [] = none := by decide

/-- R101: pin_mask is 0 in IDLE and while EN is driven, and names the lines in DATA. -/
theorem test_pin_mask :
    (outputs (ready8 [])).pinMask = 0#8 ∧ (outputs (sending .enHi [])).pinMask = 0#8 ∧
    (outputs (sending .data [])).pinMask = 0xFF#8 ∧ (outputs (sending .data [rstCycle])).pinMask = 0#8 := by decide

/-! ### Witnesses: for every statement with hypotheses, states and operands that meet all of them -/

/-- The state a pin operation of WRITE_BYTE waits in, or one of its delays; EN as it is there. -/
def busy (u : UState) (t : Nat) (en : Bool) (ins : List PortIn) : State :=
  { sending u ins with tmr := t, lines := ⟨true, en, 0xA5#8⟩ }

/-- A draining burst with `n` words to come. -/
def draining (n : Byte) (ins : List PortIn) : State :=
  { ready8 ins with ustate := .drain, opc := 0x31#8, bcnt := n, bfail := true, flt := true, rspc := .pinFail }

/-- A burst that wants `n` more words. -/
def wanting (n : Byte) (ins : List PortIn) : State := { ready8 ins with ustate := .payload, opc := 0x31#8, bcnt := n }

/-- A failed initialisation. -/
def failed (u : UState) (ins : List PortIn) : State :=
  { State.ofParams small with phase := .failed, opc := opInit8, ustate := u, flt := true, rspc := .pinFail, inputs := ins }

theorem inv_ready8 (ins : List PortIn) : Inv (ready8 ins) := by
  constructor <;> simp [ready8, State.ofParams, isDelayState, isSendState, romLen, small_valid]

theorem inv_starting (ins : List PortIn) : Inv (starting ins) := by
  constructor <;> simp [starting, State.ofParams, isDelayState, isSendState, romLen, small_valid]
  decide

theorem inv_busy_hold (ins : List PortIn) : Inv (busy .hold 1 true ins) := by
  constructor <;>
    simp [busy, sending, ready8, State.ofParams, isDelayState, isSendState, romLen, small_valid, isEntryMutator,
      isDisplayMutator] <;> decide

theorem inv_busy_post (ins : List PortIn) : Inv (busy .post 100 false ins) := by
  constructor <;>
    simp [busy, sending, ready8, State.ofParams, isDelayState, isSendState, romLen, small_valid, isEntryMutator,
      isDisplayMutator] <;> decide

theorem witness_ResetBeatsEverything : (sending .hold [rstCycle]).now.rst = true := rfl

theorem witness_EveryStepKeepsTheInvariant :
    Inv (ready8 [wordCycle 0x1000#16]) ∧ ∃ t, step (ready8 [wordCycle 0x1000#16]) = .next t :=
  ⟨inv_ready8 _, _, rfl⟩

theorem witness_NoStepStopsUnderTheInvariant : Inv (starting []) ∧ Inv (busy .post 100 false []) :=
  ⟨inv_starting _, inv_busy_post _⟩

theorem witness_DecodeOfEncodeIsTheInstruction :
    wellFormed (.lcdEntryMode .increment false) = true ∧ wellFormed (.setCursorPos 255#8) = true := by decide

theorem witness_EncodeOfDecodeIsTheWord : decode (.chip false 0xFF#8) = .ok (.lcdSetDdramAddr 127#7) := by decide

theorem witness_StepRunsTheDecodedInstruction :
    ((ready8 [wordCycle 0x10FF#16]).now.rst = false ∧ (ready8 [wordCycle 0x10FF#16]).ustate = .idle ∧
      (ready8 [wordCycle 0x10FF#16]).now.opValid = true ∧
      decode (.request (ready8 [wordCycle 0x10FF#16]).now.opWord) = .ok (.clear 0xFF#8)) ∧
    ((wanting 1#8 [wordCycle 0xFF41#16]).ustate = .payload ∧
      decode (.payload (wanting 1#8 [wordCycle 0xFF41#16]).now.opWord) = .ok (.payloadWord 0xFF#8 0x41#8)) ∧
    ((draining 1#8 [wordCycle 0x0021#16]).ustate = .drain ∧
      decode (.payload (draining 1#8 [wordCycle 0x0021#16]).now.opWord) = .ok (.payloadWord 0#8 0x21#8)) ∧
    ((sending .rs []).ustate = .rs ∧ (sending .rs []).now.rst = false ∧
      decode (.chip (sending .rs []).txf (sending .rs []).txb) = .ok (.lcdData 0xA5#8)) := by decide

theorem witness_WaitingForAWordChangesNothing :
    (ready8 []).now.rst = false ∧ (ready8 []).now.opValid = false ∧ (ready8 []).ustate = .idle ∧
    (wanting 255#8 [ackCycle]).now.opValid = false ∧ (wanting 255#8 [ackCycle]).ustate = .payload ∧
    (draining 1#8 []).now.opValid = false ∧ (draining 1#8 []).ustate = .drain := by decide

theorem witness_InitOperationsBeginTheirSequence : State.reset.ustate = .idle ∧ State.reset.phase = .poweringUp := by
  decide

/-- Of FixedCommandsLoadTheirByte, MutatorsUpdateEncodeAndLoad, WriteByteAndWriteCharLoadTheByte and
BurstHeadersLoadTheCount. -/
theorem witness_AcceptedInReady :
    (ready8 []).ustate = .idle ∧ (ready8 []).phase = .ready ∧ (1#8 : Byte) ≠ 0#8 ∧ (255#8 : Byte) ≠ 0#8 := by decide

theorem witness_PayloadWordsAreTakenOrDiscarded :
    ((wanting 255#8 []).bcnt ≠ 0#8 ∧ (wanting 255#8 []).ustate = .payload) ∧
    ((draining 1#8 []).bcnt ≠ 0#8 ∧ (draining 1#8 []).ustate = .drain ∧ (draining 1#8 []).bcnt = 1#8) ∧
    ((draining 2#8 []).bcnt ≠ 0#8 ∧ (draining 2#8 []).ustate = .drain ∧ (draining 2#8 []).bcnt ≠ 1#8) := by decide

theorem witness_ChipBytesBeginTheirTransmit :
    (sending .rs [ackCycle]).ustate = .rs ∧ (sending .rs [ackCycle]).now.pinAck = true ∧
    (sending .rs [ackCycle]).now.pinErr = false := by decide

theorem witness_WordsNotTakenHaveNoEffect :
    (encode (.clear 0#8) = .request 0x1000#16 ∧ (sending .rs []).ustate ≠ .idle) ∧
    (encode (.init8 0#8) = .request 0x0100#16 ∧ admissible (ready8 []).phase (upperByte 0x0100#16) = false) ∧
    (encode (.payloadWord 0#8 0x41#8) = .payload 0x0041#16 ∧ (ready8 []).ustate ≠ .payload ∧ (ready8 []).ustate ≠ .drain) ∧
    (encode .lcdInit30 = .chip false 0x30#8 ∧ (sending .data []).ustate ≠ .rs) := by decide

theorem witness_OpReadyTellsWhetherARequestIsTaken :
    ((ready8 [wordCycle 0x3041#16]).ustate = .idle ∧ (ready8 [wordCycle 0x3041#16]).now.rst = false ∧
      (ready8 [wordCycle 0x3041#16]).now.opValid = true ∧ (outputs (ready8 [wordCycle 0x3041#16])).opReady = true) ∧
    ((ready8 [wordCycle 0x0100#16]).ustate = .idle ∧ (ready8 [wordCycle 0x0100#16]).now.opValid = true ∧
      (outputs (ready8 [wordCycle 0x0100#16])).opReady = false) := by decide

theorem witness_ARequestWhileBusyMakesNoDifference :
    (sending .data []).ustate ≠ .idle ∧ (sending .data []).ustate ≠ .payload ∧ (sending .data []).ustate ≠ .drain := by
  decide

theorem witness_UnusedArgumentBitsChangeOnlyArg :
    (∃ t, exec (.clear 0xAB#8) (ready8 []) = .next t) ∧ (∃ t, exec (.init4 0xFF#8) State.reset = .next t) ∧
    (∃ t, exec (.shiftCursor 127#7 .right) (ready8 []) = .next t) ∧
    (∃ t, exec (.setDisplayMode 31#5 true true true) (ready8 []) = .next t) :=
  ⟨⟨_, rfl⟩, ⟨_, rfl⟩, ⟨_, rfl⟩, ⟨_, rfl⟩⟩

theorem witness_EightBitDataOperationDrivesEachLineWithItsBit :
    (sending .data [ackCycle]).ustate = .data ∧ (sending .data [ackCycle]).busw = .eight ∧
    (sending .data [ackCycle]).now.rst = false ∧ (sending .data [ackCycle]).now.pinAck = true ∧
    (sending .data [ackCycle]).now.pinErr = false := by decide

theorem witness_FourBitDataOperationDrivesTheUpperLinesWithTheNibble (n : Bool) :
    State.busw { ready4 [ackCycle] with ustate := .data, nib := n } = .four ∧
    State.now { ready4 [ackCycle] with ustate := .data, nib := n } = ackCycle := ⟨rfl, rfl⟩

theorem witness_AnUnansweredPinOperationWaits :
    isPinState (sending .enLo []).ustate = true ∧ (sending .enLo []).now.rst = false ∧
    (sending .enLo []).now.pinAck = false ∧ (sending .enLo []).endCycle.now.rst = false := by decide

/-- Of PinFailureSetsTheRegisters and, one state for each clause, of PinFailureLeavesTouchedLinesOldOrNew. -/
theorem witness_PinFailure (u : UState) (h : isPinState u = true) :
    isPinState (sending u [failCycle]).ustate = true ∧ (sending u [failCycle]).now.rst = false ∧
    (sending u [failCycle]).now.pinAck = true ∧ (sending u [failCycle]).now.pinErr = true := ⟨h, rfl, rfl, rfl⟩

theorem witness_TakingTheResponseEndsTheOperation :
    ((failed .rsp []).ustate = .rsp ∧ (failed .rsp []).now.rst = false ∧ (failed .rsp []).now.rspReady = false) ∧
    ((failed .rsp [{ silentIn with rspReady := true }]).now.rst = false ∧
      (failed .rsp [{ silentIn with rspReady := true }]).now.rspReady = true) := by decide

theorem witness_FailedStaysFailedUntilReset :
    (failed .idle [wordCycle 0x0100#16]).phase = .failed ∧ (failed .idle [wordCycle 0x0100#16]).ustate = .idle ∧
    (failed .rsp []).ustate = .rsp ∧ ∀ c ∈ (failed .idle [wordCycle 0x0100#16]).inputs.take 7, c.rst = false := by decide

theorem witness_AdmissibleOpcodesByPhase : Inv (starting []) ∧ (starting []).phase = .initialising :=
  ⟨inv_starting _, rfl⟩

theorem witness_TransmitOnTheEightBitBus :
    ValidParams (sending .rs []).cfg ∧ (sending .rs []).ustate = .rs ∧ (sending .rs []).busw = .eight ∧
    serves small (transmitEvents .eight 0xA5#8 true) (slowly small (transmitEvents .eight 0xA5#8 true)) :=
  ⟨small_valid, rfl, rfl, serves_slowly _ _ (by decide)⟩

theorem witness_TransmitOnTheFourBitBus :
    ValidParams (ready4 []).cfg ∧ (ready4 []).busw = .four ∧
    serves small (transmitEvents .four 0x00#8 false) (slowly small (transmitEvents .four 0x00#8 false)) :=
  ⟨small_valid, rfl, serves_slowly _ _ (by decide)⟩

/-- T_PWR is (15, L) in admissible parameters, and in a state that meets the invariant. -/
theorem witness_TimerWidthIsTheSmallestForThePowerOnWait :
    ValidParams small ∧ small.tPwr = ⟨15, .long⟩ ∧ Inv (starting []) := ⟨small_valid, rfl, inv_starting _⟩

/-- Parameters whose delays are one cycle each. -/
def tiny : Params := { defaultParams with tPwr := ⟨1, .short⟩, tFset := ⟨1, .short⟩, tSettle := ⟨1, .short⟩ }

theorem tiny_valid : ValidParams tiny := by
  refine ⟨by decide, by decide, fun k => by cases k <;> decide, fun k => by cases k <;> decide, ?_, ?_⟩
  · rintro ⟨_ | _, _ | _⟩ ⟨_ | _, _ | _⟩ h <;> first | rfl | exact absurd h (by decide)
  · rintro ⟨_ | _, _ | _, _ | _⟩ ⟨_ | _, _ | _, _ | _⟩ h <;> first | rfl | exact absurd h (by decide)

/-- A send on the bus `w` under `tiny` that is answered at once, with `n` payload words to come. -/
def answered (w : BusWidth) (n : Byte) : State :=
  { State.ofParams tiny with
    phase := .ready
    busw := w
    ustate := .rs
    opc := opWriteBytes
    bcnt := n
    inputs := List.replicate 9 ackCycle }

/-- At reset under `tiny`, the word `w` presented, then every pin operation answered at once. -/
def answeredInit (w : Word) : State :=
  { State.ofParams tiny with inputs := wordCycle w :: List.replicate 71 ackCycle }

/-- Each clause, with the counts of the statement under `tiny`. -/
theorem witness_AnswersAtOnceTakeTheCyclesOfTheRule :
    ((answered .eight 0#8).ustate = .rs ∧ 4 + ticksOf tiny .hold = 5 ∧ answeredAtOnce 5 (answered .eight 0#8) = true) ∧
    (7 + 2 * ticksOf tiny .hold = 9 ∧ answeredAtOnce 9 (answered .four 1#8) = true) ∧
    (transmitCycles tiny .eight + ticksOf tiny .settle = 6 ∧ answeredAtOnce 6 (answered .eight 1#8) = true ∧
      answeredAtOnce 6 (answered .eight 0#8) = true) ∧
    ((answeredInit 0x01FF#16).now.opWord = 0x01#8 ++ 0xFF#8 ∧
      1 + (ticksOf tiny .pwr + ticksOf tiny .fset + 4 * ticksOf tiny .settle + 5 * ticksOf tiny .hold + 20) = 32 ∧
      answeredAtOnce 32 (answeredInit 0x01FF#16) = true) ∧
    ((answeredInit 0x0200#16).now.opWord = 0x02#8 ++ 0x00#8 ∧
      1 + (ticksOf tiny .pwr + ticksOf tiny .fset + 6 * ticksOf tiny .settle + 14 * ticksOf tiny .hold + 49) = 72 ∧
      answeredAtOnce 72 (answeredInit 0x0200#16) = true) := by
  decide

theorem witness_ADelayLastsItsTicks :
    (Inv (starting []) ∧ (starting []).ustate = .pre ∧ (starting []).tmr = ticksOf (starting []).cfg .pwr) ∧
    (Inv (busy .hold 1 true []) ∧ (busy .hold 1 true []).tmr = ticksOf small .hold) ∧
    (Inv (busy .post 100 false []) ∧ postDelay (busy .post 100 false []) = .settle ∧
      (busy .post 100 false []).tmr = ticksOf small .settle) ∧
    ∀ c ∈ (starting []).inputs.take (ticksOf small .pwr), c.rst = false :=
  ⟨⟨inv_starting _, rfl, rfl⟩, ⟨inv_busy_hold _, rfl⟩, ⟨inv_busy_post _, rfl, rfl⟩, by decide⟩

/-- READY and idle, the word `w` presented, then a slow environment that serves the send of `b` with flag `f`. -/
def given8 (w : Word) (b : Byte) (f : Bool) : State := ready8 (wordCycle w :: slowly small (sendEvents .eight b f))

theorem given8_meets (w : Word) (b : Byte) (f : Bool) :
    ValidParams (given8 w b f).cfg ∧ (given8 w b f).ustate = .idle ∧ (given8 w b f).phase = .ready ∧
    (given8 w b f).now.rst = false ∧ (given8 w b f).now.opValid = true ∧ (given8 w b f).now.opWord = w ∧
    serves small (sendEvents .eight b f) (slowly small (sendEvents .eight b f)) ∧
    (given8 w b f).inputs.tail = slowly small (sendEvents .eight b f) ++ [] :=
  ⟨small_valid, rfl, rfl, rfl, rfl, rfl, serves_slowly _ _ (by simp [sendEvents, transmitEvents, xactEvents, isInner]),
    (List.append_nil _).symm⟩

/-- With given8_meets: one command of each clause of FixedCommandsRunToOk, both directions, the boundary position. -/
theorem witness_FixedCommandsRunToOk :
    encode (.clear 0#8) = .request 0x1000#16 ∧ encode (.home 0#8) = .request 0x1100#16 ∧
    encode (.setCursorPos 255#8) = .request 0x12FF#16 ∧ encode (.shiftCursor 0#7 .left) = .request 0x1300#16 ∧
    encode (.shiftCursor 127#7 .right) = .request 0x13FF#16 ∧ encode (.shiftDisplay 0#7 .left) = .request 0x1400#16 ∧
    encode (.shiftDisplay 0#7 .right) = .request 0x1401#16 := by decide

theorem witness_WriteByteRunsToOk : (given8 0x30FF#16 0xFF#8 true).now.opWord = 0x30#8 ++ 0xFF#8 := by decide

/-- With given8_meets: an instruction of each clause, with the register it leaves. -/
theorem witness_MutatorsSendTheWholeRegister :
    encode (.setAutoscroll 127#7 true) = .request 0x21FF#16 ∧ encode (.setCursorMode 0#7 .decrement) = .request 0x2500#16 ∧
    encode (.setCursorMode 0#7 .increment) = .request 0x2501#16 ∧
    encode (.setDisplayMode 0#5 true false true) = .request 0x2005#16 ∧
    encode (.setCursorVisibility 0#7 false) = .request 0x2200#16 ∧ encode (.setDisplay 0#7 false) = .request 0x2300#16 ∧
    encode (.setCursorBlink 0#7 true) = .request 0x2401#16 ∧
    (given8 0x2300#16 (encDisplay small ⟨false, true, false⟩) false).display.cursor = true := by decide

/-- At reset with small parameters, the word `w` presented, then a slow environment that serves the whole sequence. -/
def givenInit (b : BusWidth) (w : Word) : State :=
  { State.ofParams small with inputs := wordCycle w :: slowly small (initEvents small small.entryReset b) }

theorem givenInit_meets (b : BusWidth) (w : Word) :
    ValidParams (givenInit b w).cfg ∧ (givenInit b w).ustate = .idle ∧ (givenInit b w).phase = .poweringUp ∧
    (givenInit b w).now.rst = false ∧ (givenInit b w).now.opValid = true ∧ (givenInit b w).now.opWord = w ∧
    serves (givenInit b w).cfg (initEvents (givenInit b w).cfg (givenInit b w).entry b)
      (slowly small (initEvents small small.entryReset b)) ∧
    (givenInit b w).inputs.tail = slowly small (initEvents small small.entryReset b) ++ [] :=
  ⟨small_valid, rfl, rfl, rfl, rfl, rfl, serves_slowly small (initEvents small small.entryReset b) (by cases b <;> decide), (List.append_nil _).symm⟩

theorem witness_InitEightRunsToReady : (givenInit .eight 0x01FF#16).now.opWord = 0x01#8 ++ 0xFF#8 := by decide

theorem witness_InitFourRunsToReady : (givenInit .four 0x0200#16).now.opWord = 0x02#8 ++ 0x00#8 := by decide

/-- A burst of two words, the second byte 0xFF. -/
theorem witness_ABurstSendsItsBytesInOrder :
    ([0x41#8, 0xFF#8] : List Byte) ≠ [] ∧ ([0x41#8, 0xFF#8] : List Byte).length ≤ 255 ∧ ValidParams small ∧
    (wanting 2#8 []).phase = .ready ∧ (wanting 2#8 []).opc = 0x31#8 ∧ (wanting 2#8 []).ustate = .payload ∧
    (wanting 2#8 []).bcnt = BitVec.ofNat 8 2 ∧
    serves small (burstEvents .eight [0x41#8, 0xFF#8]) (slowly small (burstEvents .eight [0x41#8, 0xFF#8])) :=
  ⟨by decide, by decide, small_valid, rfl, rfl, rfl, rfl, serves_slowly _ _ (by decide)⟩

theorem witness_AFailedBurstDrainsItsWords :
    ([0x21#8] : List Byte) ≠ [] ∧ ([0x21#8] : List Byte).length ≤ 255 ∧ (draining 1#8 []).ustate = .drain ∧
    (draining 1#8 []).rspc = .pinFail ∧ (draining 1#8 []).bcnt = BitVec.ofNat 8 1 ∧
    serves small ([0x21#8].map .payDiscarded) (slowly small ([0x21#8].map .payDiscarded)) :=
  ⟨by decide, by decide, rfl, rfl, rfl, serves_slowly _ _ (by decide)⟩

/-- V-W6: the EN rise of the second byte of three fails; and V-W7: the first operation of the only byte. -/
theorem witness_ABurstThatFailsSendsAPrefixAndDiscardsTheRest :
    ([.pin (.rs true) .ok, .pin (.data 0xFF#8 0x49#8) .ok] ++ [.pin (.en true) .ok]) <+: transmitEvents .eight 0x49#8 true ∧
    serves small
      (failedBurstEvents .eight [0x48#8] 0x49#8 [.pin (.rs true) .ok, .pin (.data 0xFF#8 0x49#8) .ok] (.en true) [0x21#8])
      (slowly small
        (failedBurstEvents .eight [0x48#8] 0x49#8 [.pin (.rs true) .ok, .pin (.data 0xFF#8 0x49#8) .ok] (.en true)
          [0x21#8])) ∧
    (wanting 3#8 []).bcnt = BitVec.ofNat 8 (1 + 1 + 1) ∧
    ([] ++ [.pin (.rs true) .ok]) <+: transmitEvents .eight 0x48#8 true ∧
    serves small (failedBurstEvents .eight [] 0x48#8 [] (.rs true) [])
      (slowly small (failedBurstEvents .eight [] 0x48#8 [] (.rs true) [])) ∧
    (wanting 1#8 []).bcnt = BitVec.ofNat 8 (0 + 1 + 0) :=
  ⟨by decide, serves_slowly _ _ (by decide), rfl, by decide, serves_slowly _ _ (by decide), rfl⟩

theorem witness_ASendKeepsItsOrderWhateverTheAnswers :
    (sending .rs [ackCycle, failCycle]).ustate = .rs ∧ (sending .rs [ackCycle, failCycle]).phase = .ready ∧
    (sending .rs [ackCycle, failCycle]).opc ≠ 0x31#8 ∧ undisturbed 200 (sending .rs [ackCycle, failCycle]).inputs :=
  ⟨rfl, rfl, by decide, by unfold undisturbed; decide⟩

theorem witness_AnInitKeepsItsOrderWhateverTheAnswers :
    Inv (starting [ackCycle, failCycle]) ∧ (starting [ackCycle, failCycle]).ustate = .pre ∧
    (starting [ackCycle, failCycle]).tmr = ticksOf (starting [ackCycle, failCycle]).cfg .pwr ∧
    undisturbed 900 (starting [ackCycle, failCycle]).inputs :=
  ⟨inv_starting _, rfl, rfl, by unfold undisturbed; decide⟩

/-- The four causes of a change of PHASE. -/
theorem witness_PhaseFollowsTheTransitionTable :
    (∃ t, step (failed .idle [rstCycle]) = .next t ∧ t.phase ≠ (failed .idle [rstCycle]).phase) ∧
    (∃ t, step { State.reset with inputs := [wordCycle 0x02FF#16] } = .next t ∧ t.phase ≠ .poweringUp) ∧
    (∃ t, step { starting [] with ustate := .post, tmr := 1, seqPc := 4#3, txb := 0x07#8 } = .next t ∧
      t.phase ≠ .initialising) ∧
    (∃ t, step { starting [failCycle] with ustate := .enHi, tmr := 0, txb := 0x30#8 } = .next t ∧
      t.phase ≠ .initialising) :=
  ⟨⟨_, rfl, by decide⟩, ⟨_, rfl, by decide⟩, ⟨_, rfl, by decide⟩, ⟨_, rfl, by decide⟩⟩

/-- A step without reset that writes BUSW; also a step of any kind (of ParametersStayAndInputsMoveOn and
TheTraceGrowsByAtMostOneEvent). -/
theorem witness_BusWidthIsWrittenOnlyByInit :
    ∃ t, step { State.reset with inputs := [wordCycle 0x0200#16] } = .next t ∧
      State.now { State.reset with inputs := [wordCycle 0x0200#16] } = wordCycle 0x0200#16 ∧ t.busw = .four :=
  ⟨_, rfl, rfl, rfl⟩

theorem witness_StoredModesChangeOnlyByTheirMutators :
    (∃ t, step (ready8 [wordCycle 0x2500#16]) = .next t ∧ t.entry ≠ (ready8 []).entry) ∧
    (∃ t, step (ready8 [wordCycle 0x2300#16]) = .next t ∧ t.display ≠ (ready8 []).display) ∧
    (ready8 [wordCycle 0x2500#16]).now.rst = false :=
  ⟨⟨_, rfl, by decide⟩, ⟨_, rfl, by decide⟩, rfl⟩

theorem witness_LinesChangeOnlyByPinOperations :
    ∃ t, step (sending .data [ackCycle]) = .next t ∧ t.lines ≠ (sending .data [ackCycle]).lines := ⟨_, rfl, by decide⟩

theorem witness_FaultFlagIsStickyAndOnlyPinFailuresSetIt :
    ∃ t, step (sending .enHi [failCycle]) = .next t ∧ (sending .enHi [failCycle]).now.rst = false ∧ t.flt = true :=
  ⟨_, rfl, rfl, rfl⟩

/-- The end of a delay after an init byte, within the ROM and at its end; the end of T_PWR; an accepted init operation. -/
theorem witness_SequencePositionAdvancesByOne :
    (∃ t, step { starting [] with ustate := .post, tmr := 1 } = .next t ∧ t.seqPc ≠ 0#3) ∧
    (∃ t, step { starting [] with ustate := .post, tmr := 1, seqPc := 4#3 } = .next t ∧ t.seqPc ≠ 4#3) ∧
    (∃ t, step { starting [] with tmr := 1 } = .next t ∧ (starting []).ustate = .pre) ∧
    (∃ t, step { State.reset with seqPc := 3#3, inputs := [wordCycle 0x0100#16] } = .next t ∧ t.seqPc ≠ 3#3) :=
  ⟨⟨_, rfl, by decide⟩, ⟨_, rfl, by decide⟩, ⟨_, rfl, rfl⟩, ⟨_, rfl, by decide⟩⟩

/-- Each of the two stops, in register values no run reaches. -/
theorem witness_TheTwoFaultsNeedUnreachableRegisters :
    step (wanting 0#8 [wordCycle 0x0041#16]) = .fault .burstCount ∧
    step (draining 0#8 [wordCycle 0x0041#16]) = .fault .burstCount ∧
    step { starting [] with ustate := .post, tmr := 1, seqPc := 5#3 } = .fault .romIndex := ⟨rfl, rfl, rfl⟩

end Sys2Proof.Tests
end

section
/-! PROOFS of the statements about the state: the invariant (O4, O3), the reset values (O1), the width of TMR (O38), and
what a cycle makes of PHASE, BUSW, ENTRY, DISPLAY and FLT (O50, O51, O52, O54). -/

namespace Sys2Proof.Machine
variable {s t : State}

/-! ### Places of USTATE -/

theorem isSendState_iff {u : UState} :
    isSendState u = true ↔ u ≠ .idle ∧ u ≠ .pre ∧ u ≠ .payload ∧ u ≠ .drain ∧ u ≠ .rsp := by
  cases u <;> simp [isSendState]

theorem isSendState_of_isPinState {u : UState} (h : isPinState u = true) : isSendState u = true := by
  rcases isPinState_cases h with rfl | rfl | rfl | rfl <;> rfl

theorem isDelayState_of_isPinState {u : UState} (h : isPinState u = true) : isDelayState u = false := by
  rcases isPinState_cases h with rfl | rfl | rfl | rfl <;> rfl

theorem isDelayState_cases {u : UState} (h : isDelayState u = true) : u = .pre ∨ u = .hold ∨ u = .post := by
  cases u <;> simp [isDelayState] at h ⊢

theorem delayOver_eq (k : DelayKind) (s : State) :
    delayOver k s = { s with trace := (delayNoted k s).trace, tmr := 0 } := by
  unfold delayOver delayNoted
  split <;> rfl

theorem delayNoted_eq (k : DelayKind) (s : State) : delayNoted k s = { s with trace := (delayNoted k s).trace } := by
  unfold delayNoted
  split <;> rfl

/-! ### Bits of the data lines -/

/-- Where the mask is 0 on D3 to D0, a data operation leaves D3 to D0 alone, whichever of the lines it changes. -/
theorem mergeBits_lowNibble {mask : Byte} (old new : Byte) (h : mask.extractLsb' 0 4 = 0#4) :
    (mergeBits mask old new).extractLsb' 0 4 = old.extractLsb' 0 4 := by
  apply BitVec.eq_of_getLsbD_eq
  intro i hi
  have hm : mask.getLsbD i = false := by simpa [hi] using congrArg (BitVec.getLsbD · i) h
  simp [hi, mergeBits_bit mask old new i (by omega), hm]

@[simp] theorem busData_four_mask (nib : Bool) (b : Byte) : (busData .four nib b).1 = 0xF0#8 := by cases nib <;> rfl

theorem mask_lowNibble (r : Byte) : (0xF0#8 &&& r).extractLsb' 0 4 = 0#4 := by
  rw [BitVec.extractLsb'_and]
  exact BitVec.zero_and

/-- A failed pin operation of the 4-bit bus leaves D3 to D0 as they were (R137). -/
theorem partialDriveLines_lowNibble {op : PinOp} (ho : pinOpOf s = some op) (hb : s.busw = .four) (r : Byte)
    (l : Lines) : (partialDriveLines op r l).d.extractLsb' 0 4 = l.d.extractLsb' 0 4 := by
  cases hu : s.ustate <;> simp only [pinOpOf, hu, hb, busData_four_mask, Option.some.injEq, reduceCtorEq] at ho <;> subst ho
  case data => exact mergeBits_lowNibble _ _ (mask_lowNibble r)
  all_goals rfl

/-! ### What the invariant says at a place -/

theorem Inv.tmr_eq_zero (h : Inv s) (hu : isDelayState s.ustate = false) : s.tmr = 0 := h.timer.mpr hu

theorem Inv.bfail_eq_false (h : Inv s) (hd : s.ustate ≠ .drain) (hr : s.ustate ≠ .rsp) : s.bfail = false := by
  by_contra hb
  rcases (h.bfail (by simpa using hb)).1 with h' | h'
  · exact hd h'
  · exact hr h'

theorem Inv.bcnt_eq_zero (h : Inv s) (hs : isSendState s.ustate = false) (hp : s.ustate ≠ .payload)
    (hd : s.ustate ≠ .drain) : s.bcnt = 0#8 := by
  by_contra hb
  obtain ⟨-, -, hu⟩ := h.burst hb
  simp [hs, hp, hd] at hu

theorem Inv.phase_of_send (h : Inv s) (hu : isSendState s.ustate = true) : s.phase = .initialising ∨ s.phase = .ready := by
  obtain ⟨hi, -, -, -, hr⟩ := isSendState_iff.mp hu
  cases hp : s.phase with
  | poweringUp => exact absurd (h.poweringUp hp).1 hi
  | initialising => exact .inl rfl
  | ready => exact .inr rfl
  | failed => exact absurd (h.failed hp).1 (by simp [hi, hr])

theorem Inv.en_eq_false (h : Inv s) (hf : s.flt = false) (hh : s.ustate ≠ .hold) (hl : s.ustate ≠ .enLo) :
    s.lines.en = false := by
  have := h.enable hf
  simpa [hh, hl] using this

/-- Outside a pulse and before a response BFAIL is 0, and EN is low unless something has failed. -/
theorem Inv.at_rest (h : Inv s) (hu : s.ustate ∈ [.idle, .pre, .post, .payload]) :
    s.bfail = false ∧ (s.flt = false → s.lines.en = false) := by
  simp only [List.mem_cons, List.not_mem_nil, or_false] at hu
  rcases hu with hu | hu | hu | hu <;>
    exact ⟨h.bfail_eq_false (by simp [hu]) (by simp [hu]), fun hf => h.en_eq_false hf (by simp [hu]) (by simp [hu])⟩

/-! ### The moves keep the invariant -/

/-- Inside a send: USTATE goes on to another of its states than RS, with which it began (R140). -/
theorem Inv.sendGoesOn (h : Inv s) (hu : isSendState s.ustate = true) {u : UState} (hu' : isSendState u = true)
    (hrs : u ≠ .rs) {n : Nat} (ht : n = 0 ↔ isDelayState u = false) (htw : n < 2 ^ tmrWidth s.cfg) {nib : Bool}
    (hn : s.busw = .eight → nib = false) {l : Lines} (hen : s.flt = false → (l.en = true ↔ u = .hold ∨ u = .enLo))
    (hl : s.busw = .four → l.d.extractLsb' 0 4 = 0#4) (tr : List Event) :
    Inv { s with ustate := u, tmr := n, nib := nib, lines := l, trace := tr } := by
  obtain ⟨hi, hpre, hpay, hdr, hrsp⟩ := isSendState_iff.mp hu'
  obtain ⟨-, -, -, hdr', hrsp'⟩ := isSendState_iff.mp hu
  have hphase := h.phase_of_send hu
  have hbf := h.bfail_eq_false hdr' hrsp'
  exact { h with
    timer := ht
    timerWidth := htw
    enable := hen
    nibble := hn
    lowLines := hl
    initialising := fun hp => ⟨.inr hu', (h.initialising hp).2⟩
    initByte := fun hp _ => h.initByte hp hu
    burst := fun hb => ⟨(h.burst hb).1, (h.burst hb).2.1, .inl hu'⟩
    entrySend := fun hp _ => h.entrySend hp hu
    displaySend := fun hp _ => h.displaySend hp hu
    poweringUp := by rcases hphase with hp | hp <;> simp [hp]
    failed := by rcases hphase with hp | hp <;> simp [hp]
    bfail := fun hb => by simp [hbf] at hb
    pre := fun hu => absurd hu hpre
    rsNibble := fun hu => absurd hu hrs
    wordsToCome := fun hu => (hu.elim hpay hdr).elim
    drain := fun hu => absurd hu hdr
    response := fun hu => absurd hu hrsp
    entrySent := fun _ hu => absurd hu hrsp
    displaySent := fun _ hu => absurd hu hrsp }

/-- In READY a send begins, of a request or of a payload word (R91, R140). -/
theorem Inv.readySendBegins (h : Inv s) (hp : s.phase = .ready) (hu : s.ustate = .idle ∨ s.ustate = .payload)
    {o n b : Byte} {f : Bool} {e : EntryMode} {m : DisplayMode} (hn : n ≠ 0#8 → o = opWriteBytes)
    (he : isEntryMutator o → b = encEntry s.cfg e ∧ f = false)
    (hd : isDisplayMutator o → b = encDisplay s.cfg m ∧ f = false) (a : Byte) (tr : List Event) :
    Inv (State.beginSend b f { s with opc := o, arg := a, bcnt := n, entry := e, display := m, trace := tr }) := by
  obtain ⟨hbf, hen⟩ := h.at_rest (by rcases hu with hu | hu <;> simp [hu])
  have ht : s.tmr = 0 := by rcases hu with hu | hu <;> exact h.tmr_eq_zero (by simp [hu, isDelayState])
  exact { h with
    timer := by simp [ht, isDelayState]
    enable := fun hf => by simpa using hen hf
    nibble := fun _ => rfl
    rsNibble := fun _ => rfl
    burst := fun hb => ⟨hp, hn hb, .inl rfl⟩
    entrySend := fun _ _ => he
    displaySend := fun _ _ => hd
    bfail := fun hb => by simp [hbf] at hb
    poweringUp := by simp [hp]
    initialising := by simp [hp]
    initOpcode := by simp [hp]
    initByte := by simp [hp]
    failed := by simp [hp]
    stored := by simp [hp]
    pre := nofun
    wordsToCome := by simp
    drain := nofun
    response := nofun
    entrySent := nofun
    displaySent := nofun }

/-- While initialising the send of an init byte begins, after T_PWR or after the byte before it (R140, R163). -/
theorem Inv.initByteBegins (h : Inv s) (hp : s.phase = .initialising) (hu : s.ustate = .pre ∨ s.ustate = .post)
    {p : BitVec 3} {b : Byte} (hl : p.toNat < romLen s.busw) (hb : romAt s.cfg s.entry s.busw p.toNat = some b)
    (tr : List Event) (ce cd : Option Byte) :
    Inv (State.beginSend b false
      { s with seqPc := p, tmr := 0, trace := tr, chipEntry := ce, chipDisplay := cd }) := by
  obtain ⟨hbf, hen⟩ := h.at_rest (by rcases hu with hu | hu <;> simp [hu])
  exact { h with
    timer := by simp [isDelayState]
    timerWidth := Nat.two_pow_pos _
    initialising := fun _ => ⟨.inr rfl, (h.initialising hp).2.1, hl⟩
    initByte := fun _ _ => ⟨hb, rfl⟩
    enable := fun hf => by simpa using hen hf
    nibble := fun _ => rfl
    rsNibble := fun _ => rfl
    burst := fun hb => ⟨(h.burst hb).1, (h.burst hb).2.1, .inl rfl⟩
    bfail := fun hb => by simp [hbf] at hb
    poweringUp := by simp [hp]
    ready := by simp [hp]
    failed := by simp [hp]
    entrySend := by simp [hp]
    displaySend := by simp [hp]
    pre := nofun
    wordsToCome := by simp
    drain := nofun
    response := nofun
    entrySent := nofun
    displaySent := nofun }

/-- The response OK is presented in READY: after an empty burst's header, a send, or the last init byte (R96, R140, R164). -/
theorem Inv.okResponds (h : Inv s) (hu : s.ustate = .idle ∨ s.ustate = .post) {p : Phase} (hp : p = .ready)
    {pc : BitVec 3} (hpc : pc.toNat = romLen s.busw) {n : Nat} (hn : n = 0) {o c : Byte} (hc : c = 0#8)
    {ce cd : Option Byte}
    (he : isEntryMutator o → ce = some (encEntry s.cfg s.entry))
    (hd : isDisplayMutator o → cd = some (encDisplay s.cfg s.display)) (a : Byte) (tr : List Event) :
    Inv (State.respond .ok
      { s with phase := p, seqPc := pc, tmr := n, opc := o, arg := a, bcnt := c, trace := tr, chipEntry := ce,
               chipDisplay := cd }) := by
  subst hp hn hc
  obtain ⟨hbf, hen⟩ := h.at_rest (by rcases hu with hu | hu <;> simp [hu])
  exact { h with
    timer := by simp [isDelayState]
    timerWidth := Nat.two_pow_pos _
    ready := fun _ => hpc
    enable := fun hf => by simpa using hen hf
    bfail := fun hb => by simp [hbf] at hb
    burstFailed := fun hb => by simp [hbf] at hb
    entrySent := fun _ _ _ => he
    displaySent := fun _ _ _ => hd
    poweringUp := nofun
    initialising := nofun
    initOpcode := nofun
    initByte := nofun
    failed := nofun
    stored := by simp
    burst := by simp
    response := by simp
    entrySend := by simp [isSendState]
    displaySend := by simp [isSendState]
    pre := nofun
    rsNibble := nofun
    wordsToCome := by simp
    drain := nofun }

/-- A burst wants its next payload word: after its header or after the send of a word (R96, R140). -/
theorem Inv.payloadWanted (h : Inv s) (hp : s.phase = .ready) (hu : s.ustate = .idle ∨ s.ustate = .post) {n : Nat}
    (hn : n = 0) {c : Byte} (hc : c ≠ 0#8) {o : Byte} (ho : o = opWriteBytes) (a : Byte) (tr : List Event)
    (ce cd : Option Byte) :
    Inv { s with ustate := .payload, tmr := n, opc := o, arg := a, bcnt := c, trace := tr, chipEntry := ce,
                 chipDisplay := cd } := by
  subst hn
  obtain ⟨hbf, hen⟩ := h.at_rest (by rcases hu with hu | hu <;> simp [hu])
  exact { h with
    timer := by simp [isDelayState]
    timerWidth := Nat.two_pow_pos _
    enable := fun hf => by simpa using hen hf
    burst := fun _ => ⟨hp, ho, .inr (.inl rfl)⟩
    wordsToCome := fun _ => hc
    bfail := fun hb => by simp [hbf] at hb
    poweringUp := by simp [hp]
    initialising := by simp [hp]
    initOpcode := by simp [hp]
    initByte := by simp [hp]
    failed := by simp [hp]
    stored := by simp [hp]
    pre := nofun
    rsNibble := nofun
    drain := nofun
    response := nofun
    entrySend := by simp [isSendState]
    displaySend := by simp [isSendState]
    entrySent := nofun
    displaySent := nofun }

/-- An accepted init operation: T_PWR begins (R161, R162, R258). -/
theorem Inv.initBegins (h : Inv s) (hu : s.ustate = .idle) (hp : s.phase = .poweringUp) {o : Byte} {w : BusWidth}
    (ho : (o = opInit8 ∧ w = .eight) ∨ (o = opInit4 ∧ w = .four)) (a : Byte) (tr : List Event) :
    Inv (State.enterDelay .pre .pwr
      { s with opc := o, arg := a, busw := w, phase := .initialising, seqPc := 0#3, trace := tr }) := by
  obtain ⟨-, hf, hl, hn⟩ := h.poweringUp hp
  have hb : s.bcnt = 0#8 := h.bcnt_eq_zero (by simp [hu, isSendState]) (by simp [hu]) (by simp [hu])
  obtain ⟨hbf, -⟩ := h.at_rest (by simp [hu])
  have htick := ticksOf_pos h.params .pwr
  exact { h with
    timer := by simp [isDelayState]; omega
    timerWidth := h.params.fits .pwr
    initialising := fun _ => ⟨.inl rfl, hf, by cases w <;> simp [romLen]⟩
    initOpcode := fun _ => ho
    pre := fun _ => ⟨rfl, rfl⟩
    stored := fun _ => h.stored (by simp [hp])
    enable := by simp [hl]
    nibble := fun _ => hn
    lowLines := by simp [hl]
    burst := by simp [hb]
    bfail := by simp [hbf]
    poweringUp := nofun
    initByte := by simp [isSendState]
    ready := nofun
    failed := nofun
    rsNibble := nofun
    wordsToCome := by simp
    drain := nofun
    response := nofun
    entrySend := nofun
    displaySend := nofun
    entrySent := nofun
    displaySent := nofun }

/-- A failed burst has words to discard: after the failure, or after a word that was not the last (R224, R243). -/
theorem Inv.burstDrains (h : Inv s) (hp : s.phase = .ready) (ho : s.opc = opWriteBytes)
    (hu : isDelayState s.ustate = false) {n : Byte} (hn : n ≠ 0#8) {bf fl : Bool} {rc : RspCode} (hbf : bf = true)
    (hfl : fl = true) (hrc : rc = .pinFail) {l : Lines} (hl : s.busw = .four → l.d.extractLsb' 0 4 = 0#4)
    (tr : List Event) (ctr : Nat) :
    Inv { s with ustate := .drain, bcnt := n, bfail := bf, flt := fl, rspc := rc, lines := l, trace := tr,
                 freeCtr := ctr } := by
  exact { h with
    timer := by simp [h.tmr_eq_zero hu, isDelayState]
    enable := by simp [hfl]
    lowLines := hl
    burst := fun _ => ⟨hp, ho, .inr (.inr rfl)⟩
    wordsToCome := fun _ => hn
    drain := fun _ => ⟨hbf, hfl, hrc⟩
    bfail := fun _ => ⟨.inl rfl, ho⟩
    burstFailed := fun _ => ⟨hfl, hrc⟩
    poweringUp := by simp [hp]
    initialising := by simp [hp]
    initByte := by simp [hp]
    failed := by simp [hp]
    pre := nofun
    rsNibble := nofun
    response := nofun
    entrySend := by simp [isSendState]
    displaySend := by simp [isSendState]
    entrySent := nofun
    displaySent := nofun }

/-- The response PIN_FAIL is presented: after a failure with no words to discard, or after the last of them (R224, R243). -/
theorem Inv.pinFailResponds (h : Inv s) (hu : isDelayState s.ustate = false) {p : Phase} {n : Byte} {bf fl : Bool}
    {rc : RspCode} (hp : p = .ready ∧ s.phase = .ready ∨ p = .failed ∧ s.phase ≠ .ready) (hn : n = 0#8)
    (hbf : bf = true → s.opc = opWriteBytes) (hfl : fl = true) (hrc : rc = .pinFail) {l : Lines}
    (hl : s.busw = .four → l.d.extractLsb' 0 4 = 0#4) (tr : List Event) (ctr : Nat) :
    Inv { s with phase := p, ustate := .rsp, bcnt := n, bfail := bf, flt := fl, rspc := rc, lines := l, trace := tr,
                 freeCtr := ctr } := by
  have hp' : p = .ready → s.phase = .ready := fun h => by simpa [h] using hp
  exact { h with
    timer := by simp [h.tmr_eq_zero hu, isDelayState]
    ready := fun hr => h.ready (hp' hr)
    stored := fun hr => h.stored (by rcases hp with ⟨h', -⟩ | ⟨-, h'⟩; exacts [absurd h' hr, h'])
    failed := fun _ => ⟨.inr rfl, hfl⟩
    enable := by simp [hfl]
    lowLines := hl
    bfail := fun hb => ⟨.inr rfl, hbf hb⟩
    burstFailed := fun _ => ⟨hfl, hrc⟩
    response := fun _ _ => hfl
    poweringUp := by rcases hp with ⟨rfl, -⟩ | ⟨rfl, -⟩ <;> nofun
    initialising := by rcases hp with ⟨rfl, -⟩ | ⟨rfl, -⟩ <;> nofun
    initOpcode := by rcases hp with ⟨rfl, -⟩ | ⟨rfl, -⟩ <;> nofun
    initByte := by simp [isSendState]
    burst := by simp [hn]
    pre := nofun
    rsNibble := nofun
    wordsToCome := by simp
    drain := nofun
    entrySend := by simp [isSendState]
    displaySend := by simp [isSendState]
    entrySent := by simp [hrc]
    displaySent := by simp [hrc] }

/-- The host takes the response (R97, R247). -/
theorem Inv.responseTaken (h : Inv s) (hu : s.ustate = .rsp) : Inv s.takeResponse := by
  have hb : s.bcnt = 0#8 := h.bcnt_eq_zero (by simp [hu, isSendState]) (by simp [hu]) (by simp [hu])
  have ht : s.tmr = 0 := h.tmr_eq_zero (by simp [hu, isDelayState])
  exact { h with
    timer := by simp [ht, isDelayState]
    poweringUp := fun hp => by simpa [hu] using h.poweringUp hp
    initialising := fun hp => by simpa [hu, isSendState] using h.initialising hp
    failed := fun hp => ⟨.inl rfl, (h.failed hp).2⟩
    enable := fun hf => by simpa using h.en_eq_false hf (by simp [hu]) (by simp [hu])
    burst := by simp [hb]
    pre := nofun
    initByte := by simp [isSendState]
    rsNibble := nofun
    wordsToCome := by simp
    drain := nofun
    bfail := nofun
    burstFailed := nofun
    response := nofun
    entrySend := by simp [isSendState]
    displaySend := by simp [isSendState]
    entrySent := nofun
    displaySent := nofun }

/-- A delay that is not over counts down (R258). -/
theorem Inv.delayGoesOn (h : Inv s) (hu : isDelayState s.ustate = true) (ht : 1 < s.tmr) (tr : List Event) :
    Inv { s with trace := tr, tmr := s.tmr - 1 } :=
  { h with
    timer := by simp [hu]; omega
    timerWidth := Nat.lt_of_le_of_lt (Nat.sub_le _ _) h.timerWidth }

/-- A pin operation answered fail (R243): the words of a burst are still to be discarded, or PIN_FAIL is presented. -/
theorem Inv.pinFails (h : Inv s) {op : PinOp} (hu : isPinState s.ustate = true) (ho : pinOpOf s = some op) :
    Inv (s.pinFailure op) := by
  have hs := isSendState_of_isPinState hu
  have hnd := isDelayState_of_isPinState hu
  have hl : s.busw = .four →
      (partialDriveLines op (Config.partialDrive s.freeCtr) s.lines).d.extractLsb' 0 4 = 0#4 := fun hb => by
    rw [partialDriveLines_lowNibble ho hb, h.lowLines hb]
  by_cases hb : s.bcnt = 0#8
  · have hp : s.failRegisters.phase = .ready ∧ s.phase = .ready ∨
        s.failRegisters.phase = .failed ∧ s.phase ≠ .ready := by
      rcases h.phase_of_send hs with hp | hp <;> simp [hp]
    obtain ⟨-, -, -, hd, hr⟩ := isSendState_iff.mp hs
    have hbf := h.bfail_eq_false hd hr
    simpa [State.pinFailure, State.failRegisters, hb] using
      h.pinFailResponds (bf := s.bfail) hnd hp hb (by simp [hbf]) rfl rfl hl (s.trace ++ [.pin op .fail]) (s.freeCtr + 1)
  · obtain ⟨hp, hopc, -⟩ := h.burst hb
    simpa [State.pinFailure, State.failRegisters, hp, hopc, hb] using
      h.burstDrains hp hopc hnd hb rfl rfl rfl hl (s.trace ++ [.pin op .fail]) (s.freeCtr + 1)

/-- A payload word of a failed burst is discarded (R224). -/
theorem Inv.wordDiscarded (h : Inv s) (hu : s.ustate = .drain) (tr : List Event) :
    Inv { s with bcnt := s.bcnt - 1#8, trace := tr, ustate := if s.bcnt = 1#8 then .rsp else .drain } := by
  obtain ⟨hp, ho, -⟩ := h.burst (h.wordsToCome (.inr hu))
  obtain ⟨hbf, hfl, hrc⟩ := h.drain hu
  have hnd : isDelayState s.ustate = false := by simp [hu, isDelayState]
  split
  case isTrue h1 => exact h.pinFailResponds hnd (.inl ⟨hp, hp⟩) (by rw [h1]; rfl) (fun _ => ho) hfl hrc h.lowLines ..
  case isFalse h1 => exact h.burstDrains hp ho hnd (sub_ne_zero.mpr h1) hbf hfl hrc h.lowLines ..

/-- The opcodes that mutate no register: those of the init operations, the fixed commands and the data writes. -/
theorem not_mutator {o : Byte} (ho : o ∈ [opInit8, opInit4, opClear, opHome, opSetCursorPos, opShiftCursor,
    opShiftDisplay, opWriteByte, opWriteBytes]) : ¬ isEntryMutator o ∧ ¬ isDisplayMutator o := by
  revert o
  unfold isEntryMutator isDisplayMutator
  decide

theorem not_isDisplayMutator_of_isEntryMutator {o : Byte} (ho : isEntryMutator o) : ¬ isDisplayMutator o := by
  rcases ho with rfl | rfl <;> unfold isDisplayMutator <;> decide

/-- The ghost of the entry mode after a send that a mutator of ENTRY began holds the whole register (R50, R209). -/
theorem Inv.chipEntry_noteSent (h : Inv s) (hu : s.ustate = .post) (hp : s.phase = .ready)
    (ho : isEntryMutator s.opc) : s.noteSent.chipEntry = some (encEntry s.cfg s.entry) := by
  obtain ⟨hb, -⟩ := h.entrySend hp (by simp [hu, isSendState]) ho
  have hs : sentEntryMode s = true := by simpa [sentEntryMode, hp, isEntryMutator] using ho
  simp [hs, hb]

/-- The ghost of the display mode after a send that a mutator of DISPLAY began holds the whole register (R50, R209). -/
theorem Inv.chipDisplay_noteSent (h : Inv s) (hu : s.ustate = .post) (hp : s.phase = .ready)
    (ho : isDisplayMutator s.opc) : s.noteSent.chipDisplay = some (encDisplay s.cfg s.display) := by
  obtain ⟨hb, -⟩ := h.displaySend hp (by simp [hu, isSendState]) ho
  have hs : sentDisplayMode s = true := by
    rcases ho with ho | ho | ho | ho <;> simp [sentDisplayMode, hp, ho]
  simp [hs, hb]

/-- SEQ_PC does not wrap at the end of either ROM (R26). -/
theorem toNat_add_one_of_lt_romLen {p : BitVec 3} {w : BusWidth} (h : p.toNat < romLen w) :
    (p + 1#3).toNat = p.toNat + 1 := by
  cases w <;> simp only [romLen] at h <;> bv_omega

/-- Every move of a cycle without reset keeps the invariant. -/
theorem Inv.move (h : Inv s) (hm : Move s t) : Inv t := by
  cases hm with
  | stays => exact h
  | initAccepted w hu hp _ ho => exact h.initBegins hu hp (by cases w <;> simp [ho]) ..
  | sendAccepted x b f hu hp _ ho =>
    obtain ⟨hne, hnd⟩ := not_mutator (o := upperByte s.now.opWord) (by simp only [List.mem_cons] at ho ⊢; tauto)
    have hb := h.bcnt_eq_zero (by simp [hu, isSendState]) (by simp [hu]) (by simp [hu])
    exact h.readySendBegins hp (.inl hu) (absurd hb) (absurd · hne) (absurd · hnd) ..
  | entryAccepted x e hu hp _ ho =>
    have hb := h.bcnt_eq_zero (by simp [hu, isSendState]) (by simp [hu]) (by simp [hu])
    exact h.readySendBegins hp (.inl hu) (absurd hb) (fun _ => ⟨rfl, rfl⟩)
      (absurd · (not_isDisplayMutator_of_isEntryMutator ho)) ..
  | displayAccepted x m hu hp _ ho =>
    have hb := h.bcnt_eq_zero (by simp [hu, isSendState]) (by simp [hu]) (by simp [hu])
    exact h.readySendBegins hp (.inl hu) (absurd hb) (fun he => absurd ho (not_isDisplayMutator_of_isEntryMutator he))
      (fun _ => ⟨rfl, rfl⟩) ..
  | emptyBurstAccepted hu hp =>
    obtain ⟨hne, hnd⟩ := not_mutator (o := opWriteBytes) (by simp)
    exact h.okResponds (.inl hu) hp (h.ready hp) (h.tmr_eq_zero (by simp [hu, isDelayState])) rfl (absurd · hne)
      (absurd · hnd) ..
  | burstAccepted hu hp _ _ hn =>
    exact h.payloadWanted hp (.inl hu) (h.tmr_eq_zero (by simp [hu, isDelayState])) hn rfl ..
  | payloadTaken hu _ hb =>
    obtain ⟨hp, ho, -⟩ := h.burst hb
    obtain ⟨hne, hnd⟩ := not_mutator (o := s.opc) (by simp [ho])
    exact h.readySendBegins hp (.inr hu) (fun _ => ho) (absurd · hne) (absurd · hnd) ..
  | payloadDiscarded hu => exact h.wordDiscarded hu _
  | rsOk hu =>
    have ht : s.tmr = 0 := h.tmr_eq_zero (by simp [hu, isDelayState])
    have hen : s.flt = false → s.lines.en = false := fun hf => h.en_eq_false hf (by simp [hu]) (by simp [hu])
    exact h.sendGoesOn (u := .data) (l := driveLines (.rs s.txf) s.lines) (by simp [hu, isSendState]) rfl (by simp)
      (by simp [ht, isDelayState]) h.timerWidth (fun _ => rfl) (fun hf => by simpa [driveLines] using hen hf) h.lowLines ..
  | dataOk hu =>
    have ht : s.tmr = 0 := h.tmr_eq_zero (by simp [hu, isDelayState])
    have hen : s.flt = false → s.lines.en = false := fun hf => h.en_eq_false hf (by simp [hu]) (by simp [hu])
    exact h.sendGoesOn (u := .enHi) (by simp [hu, isSendState]) rfl (by simp) (by simp [ht, isDelayState]) h.timerWidth
      h.nibble (fun hf => by simpa [driveLines] using hen hf)
      (fun hb => by simpa [driveLines, hb] using (mergeBits_lowNibble _ _ (by decide)).trans (h.lowLines hb)) ..
  | enHiOk hu =>
    have ht : ticksOf s.cfg .hold ≠ 0 := Nat.one_le_iff_ne_zero.mp (ticksOf_pos h.params _)
    exact h.sendGoesOn (u := .hold) (l := driveLines (.en true) s.lines) (by simp [hu, isSendState]) rfl (by simp)
      (by simpa [isDelayState] using ht) (h.params.fits .hold) h.nibble (fun _ => by simp [driveLines]) h.lowLines ..
  | nibbleOk hu _ _ hb =>
    have ht : s.tmr = 0 := h.tmr_eq_zero (by simp [hu, isDelayState])
    exact h.sendGoesOn (u := .data) (l := driveLines (.en false) s.lines) (by simp [hu, isSendState]) rfl (by simp)
      (by simp [ht, isDelayState]) h.timerWidth (by simp [hb]) (fun _ => by simp [driveLines]) h.lowLines ..
  | byteOk hu =>
    have ht : ticksOf s.cfg (postDelay s) ≠ 0 := Nat.one_le_iff_ne_zero.mp (ticksOf_pos h.params _)
    exact h.sendGoesOn (u := .post) (l := driveLines (.en false) s.lines) (by simp [hu, isSendState]) rfl (by simp)
      (by simpa [isDelayState] using ht) (h.params.fits _) h.nibble (fun _ => by simp [driveLines]) h.lowLines ..
  | failed op hu ho => exact h.pinFails hu ho
  | delayGoesOn k hu _ ht =>
    rw [delayNoted_eq]
    exact h.delayGoesOn hu ht _
  | firstByte b hu _ hb =>
    obtain ⟨hp, hpc⟩ := h.pre hu
    rw [delayOver_eq]
    exact h.initByteBegins hp (.inl hu) (h.initialising hp).2.2 (by simpa [hpc] using hb) ..
  | holdOver hu =>
    rw [delayOver_eq]
    exact h.sendGoesOn (u := .enLo) (by simp [hu, isSendState]) rfl (by simp) (by simp [isDelayState])
      (Nat.two_pow_pos _) h.nibble (fun hf => by simpa [hu] using h.enable hf) h.lowLines ..
  | nextInitByte b hu hp _ hl hb =>
    obtain ⟨-, -, hlt⟩ := h.initialising hp
    have hpc := toNat_add_one_of_lt_romLen hlt
    rw [delayOver_eq]
    exact h.initByteBegins hp (.inr hu) (by omega) (by rw [hpc]; exact hb) ..
  | initDone hu hp _ hl =>
    obtain ⟨hne, hnd⟩ := not_mutator (o := s.opc) (by rcases h.initOpcode hp with ⟨ho, -⟩ | ⟨ho, -⟩ <;> simp [ho])
    obtain ⟨-, -, hlt⟩ := h.initialising hp
    have hb : s.bcnt = 0#8 := by
      by_contra hb
      simpa [hp] using (h.burst hb).1
    rw [delayOver_eq]
    exact h.okResponds (.inr hu) rfl ((toNat_add_one_of_lt_romLen hlt).trans hl) rfl hb (absurd · hne) (absurd · hnd) ..
  | nextPayload hu hp _ ho hb =>
    rw [delayOver_eq]
    exact h.payloadWanted (h.burst hb).1 (.inr hu) rfl hb ho ..
  | sendDone hu hp _ hb =>
    have hr : s.phase = .ready := (h.phase_of_send (by simp [hu, isSendState])).resolve_left hp
    have hb0 : s.bcnt = 0#8 := by
      by_contra hn
      exact hb ⟨(h.burst hn).2.1, hn⟩
    rw [delayOver_eq]
    exact h.okResponds (.inr hu) hr (h.ready hr) rfl hb0 (h.chipEntry_noteSent hu hr) (h.chipDisplay_noteSent hu hr) ..
  | responseTaken hu => exact h.responseTaken hu

/-- The registers of reset meet the invariant for every admissible build (R55). -/
theorem inv_ofParams {c : Params} (hc : ValidParams c) : Inv (State.ofParams c) := by
  constructor
  case params => exact hc
  case timerWidth => exact Nat.two_pow_pos _
  all_goals simp [isDelayState]

/-- A cycle of reset gives the invariant back (R280). -/
theorem Inv.afterReset (h : Inv s) : Inv s.afterReset := { inv_ofParams h.params with }

/-- The invariant says nothing of the inputs to come. -/
theorem Inv.endCycle (h : Inv s) : Inv s.endCycle := { h with }

/-- A cycle is a reset or a move, and the inputs move on. -/
theorem step_cases (h : step s = .next t) :
    (s.now.rst = true ∧ t = s.afterReset.endCycle) ∨ (s.now.rst = false ∧ ∃ u, Move s u ∧ t = u.endCycle) := by
  cases hr : s.now.rst with
  | true =>
    rw [step_reset hr, Host.Outcome.next.injEq] at h
    exact .inl ⟨rfl, h.symm⟩
  | false => exact .inr ⟨rfl, step_moves hr h⟩

/-- Settles O4: reset gives the invariant, and every move keeps it. -/
theorem everyStepKeepsTheInvariant : Obligations.EveryStepKeepsTheInvariant := by
  intro s t h hs
  rcases step_cases hs with ⟨-, rfl⟩ | ⟨-, u, hm, rfl⟩
  · exact h.afterReset.endCycle
  · exact (h.move hm).endCycle

/-! ### The parameters of R10 -/

/-- The default EncEntry shows AS in bit 0 and DIR in bit 1 (R9). -/
theorem encEntry_default_bits (e : EntryMode) :
    (encEntry defaultParams e).getLsbD 0 = e.autoscroll ∧
      CursorDir.ofBit ((encEntry defaultParams e).getLsbD 1) = e.dir := by
  obtain ⟨a, d⟩ := e
  cases a <;> cases d <;> decide

/-- The default EncDisplay shows D, C and B in bits 2, 1 and 0 (R9). -/
theorem encDisplay_default_bits (m : DisplayMode) :
    (encDisplay defaultParams m).getLsbD 2 = m.display ∧ (encDisplay defaultParams m).getLsbD 1 = m.cursor ∧
      (encDisplay defaultParams m).getLsbD 0 = m.blink := by
  obtain ⟨d, c, b⟩ := m
  cases d <;> cases c <;> cases b <;> decide

theorem validParams_default : ValidParams defaultParams where
  ticksPerS := by decide
  longRatio := by decide
  counts k := by cases k <;> decide
  fits k := by cases k <;> decide
  encEntryInjective e e' h := by
    obtain ⟨ha, hd⟩ := encEntry_default_bits e
    obtain ⟨ha', hd'⟩ := encEntry_default_bits e'
    rw [h] at ha hd
    cases e; cases e'
    simp_all
  encDisplayInjective m m' h := by
    obtain ⟨hd, hc, hb⟩ := encDisplay_default_bits m
    obtain ⟨hd', hc', hb'⟩ := encDisplay_default_bits m'
    rw [h] at hd hc hb
    cases m; cases m'
    simp_all

/-- Settles O3: the default parameters are admissible, and every reset state of an admissible build meets the invariant. -/
theorem resetMeetsTheInvariant : Obligations.ResetMeetsTheInvariant := inv_ofParams validParams_default

/-- Settles O1, by unfolding the reset values. -/
theorem resetHoldsTheTableOfResetValues : Obligations.ResetHoldsTheTableOfResetValues := rfl

/-- Settles O38: the width is that of the logarithm of T_PWR's ticks, and the invariant bounds TMR by it. -/
theorem timerWidthIsTheSmallestForThePowerOnWait : Obligations.TimerWidthIsTheSmallestForThePowerOnWait := by
  refine ⟨fun c n hc => tmrWidth_le_iff (ticksOf_pos hc .pwr) n, fun c n hc hp => ?_, by decide, fun s h => h.timerWidth⟩
  have ht : ticksOf c .pwr = 15 * c.longRatio * c.ticksPerS := by simp [ticksOf, durationOf, ticks, hp]
  rw [← ht]
  exact tmrWidth_le_iff (ticksOf_pos hc .pwr) n

/-! ### What a move does to PHASE, BUSW, ENTRY and DISPLAY -/

/-- What a move makes of PHASE (R22), by the cause of a change. The moves not named below keep PHASE, and their USTATE or
their phase is that of none of the causes. -/
theorem Move.phase_eq (hm : Move s t) :
    t.phase =
      if s.phase = .poweringUp ∧ s.ustate = .idle ∧ s.now.opValid = true ∧
          (upperByte s.now.opWord = opInit8 ∨ upperByte s.now.opWord = opInit4) then .initialising
      else if s.phase = .initialising ∧ s.ustate = .post ∧ s.tmr ≤ 1 ∧ s.seqPc.toNat + 1 = romLen s.busw then .ready
      else if s.phase = .initialising ∧ isPinState s.ustate = true ∧ s.now.pinAck = true ∧ s.now.pinErr = true then .failed
      else s.phase := by
  cases hm with
  | stays hpin hdelay hidle =>
    rw [if_neg, if_neg, if_neg]
    · rintro ⟨-, hu, ha, -⟩
      simp [hpin hu] at ha
    · rintro ⟨-, hu, -⟩
      simp [hu, isDelayState] at hdelay
    · rintro ⟨hp, hu, hv, ho⟩
      simp [hp, admissible_poweringUp.mpr ho] at hidle
      simp [hidle hu] at hv
  | initAccepted w hu hp hv ho => cases w <;> simp [hu, hp, hv, ho]
  | initDone hu hp ht hl => simp [hu, hp, ht, hl]
  | failed op hu ho ha he => rcases isPinState_cases hu with hu' | hu' | hu' | hu' <;>
      simp [hu', ha, he, isPinState]
  | delayGoesOn k hu hk ht => rcases isDelayState_cases hu with hu' | hu' | hu' <;> simp [hu', ht.not_ge, isPinState]
  | _ => simp_all [isPinState]

/-- Settles O50: reset gives POWERING_UP, and what a move makes of PHASE is the rest of the table. -/
theorem phaseFollowsTheTransitionTable : Obligations.PhaseFollowsTheTransitionTable := by
  intro s t hs
  rcases step_cases hs with ⟨hr, rfl⟩ | ⟨hr, u, hm, rfl⟩
  · simp [hr]
  · rw [if_neg (by simp [hr])]
    exact hm.phase_eq

/-- Settles O51: the only move that writes BUSW is the acceptance of an init operation. -/
theorem busWidthIsWrittenOnlyByInit : Obligations.BusWidthIsWrittenOnlyByInit := by
  intro s t hs hr
  obtain ⟨u, hm, rfl⟩ := step_moves hr hs
  cases hm with
  | initAccepted w hu hp hv ho =>
    refine .inr ⟨hp, hu, hv, ?_⟩
    cases w
    · exact .inl ⟨ho, rfl⟩
    · exact .inr ⟨ho, rfl⟩
  | _ => exact .inl (by simp)

/-- Settles O52: the only moves that write ENTRY and DISPLAY are the acceptances of their mutators, and those of one
register keep the other. -/
theorem storedModesChangeOnlyByTheirMutators : Obligations.StoredModesChangeOnlyByTheirMutators := by
  intro s t hs hr
  obtain ⟨u, hm, rfl⟩ := step_moves hr hs
  cases hm with
  | entryAccepted x e hu hp hv ho =>
    exact ⟨fun _ => ⟨hp, hu, hv, by rcases ho with ho | ho <;> rw [ho] <;> decide⟩, fun h => absurd rfl h⟩
  | displayAccepted x m hu hp hv ho =>
    exact ⟨fun h => absurd rfl h, fun _ => ⟨hp, hu, hv, by rcases ho with ho | ho | ho | ho <;> rw [ho] <;> decide⟩⟩
  | _ => exact ⟨absurd (by simp), absurd (by simp)⟩

/-! ### FLT is read by nothing -/

/-- The state with FLT overwritten. -/
def State.withFlt (b : Bool) (s : State) : State := { s with flt := b }

/-- `f` neither reads nor writes FLT: where it answers a state, it answers the same state for any other FLT but for FLT. -/
def ignoresFlt (f : State → Result) : Prop :=
  ∀ (s t : State) (b : Bool), f s = .next t → f (s.withFlt b) = .next (t.withFlt b)

theorem ignoresFlt_next {f : State → State} (hf : ∀ s b, f (State.withFlt b s) = (f s).withFlt b) :
    ignoresFlt fun s => .next (f s) := by
  intro s t b h
  simp only [Host.Outcome.next.injEq] at h
  subst h
  exact congrArg _ (hf s b)

/-- Where FLT is not read, a test of anything else may choose between two such functions. -/
theorem ignoresFlt_ite {p : State → Prop} [DecidablePred p] {f g : State → Result}
    (hp : ∀ s b, p (State.withFlt b s) ↔ p s) (hf : ignoresFlt f) (hg : ignoresFlt g) :
    ignoresFlt fun s => if p s then f s else g s := by
  intro s t b h
  dsimp only at h ⊢
  by_cases h' : p s
  · rw [if_pos h'] at h
    rw [if_pos ((hp s b).mpr h')]
    exact hf s t b h
  · rw [if_neg h'] at h
    rw [if_neg fun hb => h' ((hp s b).mp hb)]
    exact hg s t b h

theorem request_ignoresFlt {o a x : Byte} {f : State → State} (hf : ∀ s b, f (State.withFlt b s) = (f s).withFlt b) :
    ignoresFlt (request o a x f) :=
  ignoresFlt_ite (fun _ _ => .rfl) (ignoresFlt_next fun s b => hf (s.latch o a x) b) (ignoresFlt_next fun _ _ => rfl)

theorem singleSend_ignoresFlt (o a x c : Byte) (f : Bool) : ignoresFlt (singleSend o a x c f) :=
  request_ignoresFlt fun _ _ => rfl

theorem mutateEntry_ignoresFlt (o a x : Byte) (g : EntryMode → EntryMode) : ignoresFlt (mutateEntry o a x g) :=
  request_ignoresFlt fun _ _ => rfl

theorem mutateDisplay_ignoresFlt (o a x : Byte) (g : DisplayMode → DisplayMode) : ignoresFlt (mutateDisplay o a x g) :=
  request_ignoresFlt fun _ _ => rfl

theorem startInit_ignoresFlt (o a : Byte) (w : BusWidth) : ignoresFlt (startInit o a w) :=
  request_ignoresFlt fun _ _ => rfl

theorem startBurst_ignoresFlt (o n : Byte) : ignoresFlt (startBurst o n) :=
  request_ignoresFlt fun s b => by split <;> rfl

theorem takePayload_ignoresFlt (b : Byte) : ignoresFlt (takePayload b) :=
  ignoresFlt_ite (fun _ _ => .rfl) (fun _ _ _ h => nomatch h) (ignoresFlt_next fun _ _ => rfl)

theorem discardPayload_ignoresFlt (b : Byte) : ignoresFlt (discardPayload b) :=
  ignoresFlt_ite (fun _ _ => .rfl) (fun _ _ _ h => nomatch h) (ignoresFlt_next fun _ _ => rfl)

theorem ite_withFlt {p : Prop} [Decidable p] {x y x' y' : State} (b : Bool) (hx : x' = x.withFlt b)
    (hy : y' = y.withFlt b) : (if p then x' else y') = (if p then x else y).withFlt b := by
  split
  · exact hx
  · exact hy

theorem delayNoted_withFlt (k : DelayKind) (s : State) (b : Bool) :
    delayNoted k (s.withFlt b) = (delayNoted k s).withFlt b := by
  unfold delayNoted
  exact ite_withFlt b rfl rfl

theorem delayCycle_ignoresFlt {k : DelayKind} {f : State → Result} (hf : ignoresFlt f) :
    ignoresFlt (delayCycle k f) := by
  intro s t b h
  by_cases ht : s.tmr ≤ 1
  · rw [delayCycle_ends ht] at h
    rw [delayCycle_ends (s := s.withFlt b) ht, delayNoted_withFlt]
    exact hf _ _ b h
  · rw [delayCycle_goes_on (by omega)] at h
    rw [delayCycle_goes_on (s := s.withFlt b) (by simpa [State.withFlt] using ht), delayNoted_withFlt]
    simp only [Host.Outcome.next.injEq] at h
    subst h
    rfl

theorem afterInitByte_ignoresFlt : ignoresFlt afterInitByte := by
  refine ignoresFlt_ite (fun _ _ => .rfl) (ignoresFlt_next fun _ _ => rfl) fun s t b h => ?_
  cases hb : romAt s.cfg s.entry s.busw (s.seqPc.toNat + 1) with
  | none => simp [hb] at h
  | some c =>
    simp only [hb, Host.Outcome.next.injEq] at h
    subst h
    simp only [State.withFlt, hb]
    rfl

theorem afterSend_ignoresFlt : ignoresFlt afterSend :=
  ignoresFlt_ite (fun _ _ => .rfl) (fun s t b => afterInitByte_ignoresFlt s.noteSent t b)
    (ignoresFlt_ite (fun _ _ => .rfl) (ignoresFlt_next fun _ _ => rfl) (ignoresFlt_next fun _ _ => rfl))

theorem preCycle_ignoresFlt : ignoresFlt preCycle := by
  refine delayCycle_ignoresFlt fun s t b h => ?_
  cases hb : romAt s.cfg s.entry s.busw 0 with
  | none => simp [hb] at h
  | some c =>
    simp only [hb, Host.Outcome.next.injEq] at h
    subst h
    simp only [State.withFlt, hb]
    rfl

theorem holdCycle_ignoresFlt : ignoresFlt holdCycle := delayCycle_ignoresFlt (ignoresFlt_next fun _ _ => rfl)

theorem postCycle_ignoresFlt : ignoresFlt postCycle := fun s => delayCycle_ignoresFlt afterSend_ignoresFlt s

theorem rspCycle_withFlt (s : State) (b : Bool) : rspCycle (s.withFlt b) = (rspCycle s).withFlt b := by
  unfold rspCycle
  exact ite_withFlt b rfl rfl

/-- A cycle of a pin operation does not read FLT, and a failure sets it. -/
theorem pinCycle_withFlt (op : PinOp) {f : State → State} (hf : ∀ s b, f (State.withFlt b s) = (f s).withFlt b)
    (s : State) (b : Bool) :
    pinCycle op f (s.withFlt b) = (pinCycle op f s).withFlt (b || (s.now.pinAck && s.now.pinErr)) := by
  rcases pinCycle_cases op f s with ⟨ha, h⟩ | ⟨ha, he, h⟩ | ⟨ha, he, h⟩
  · rw [h, pinCycle_waits (s := s.withFlt b) ha]
    simp [ha]
  · rw [h, pinCycle_ok (s := s.withFlt b) ha he]
    simp only [ha, he, Bool.and_false, Bool.or_false]
    exact hf (s.pinOk op) b
  · rw [h, pinCycle_fails (s := s.withFlt b) ha he]
    simp only [ha, he, Bool.and_self, Bool.or_true]
    rfl

theorem afterPulse_withFlt (s : State) (b : Bool) : afterPulse (s.withFlt b) = (afterPulse s).withFlt b := by
  unfold afterPulse
  exact ite_withFlt b rfl rfl

/-- Where no Transmit begins, no instruction reads or writes FLT. -/
theorem exec_withFlt (i : Instr) {s t : State} (hu : s.ustate ≠ .rs) (h : exec i s = .next t) (b : Bool) :
    exec i (s.withFlt b) = .next (t.withFlt b) := by
  have chip : ∀ c f, transmit c f s = .next t → transmit c f (s.withFlt b) = .next (t.withFlt b) := fun c f h => by
    rw [transmit_elsewhere hu, Host.Outcome.next.injEq] at h
    rw [transmit_elsewhere (s := s.withFlt b) hu, h]
  cases i with
  | init8 | init4 => exact startInit_ignoresFlt _ _ _ s t b h
  | clear | home | setCursorPos | shiftCursor | shiftDisplay | writeByte | writeChar =>
    exact singleSend_ignoresFlt _ _ _ _ _ s t b h
  | setAutoscroll | setCursorMode =>
    simp only [exec, execSetAutoscroll, execSetCursorMode] at h
    exact mutateEntry_ignoresFlt _ _ _ _ s t b h
  | setDisplayMode | setCursorVisibility | setDisplay | setCursorBlink =>
    simp only [exec, execSetDisplayMode, execSetCursorVisibility, execSetDisplay, execSetCursorBlink] at h
    exact mutateDisplay_ignoresFlt _ _ _ _ s t b h
  | writeBytes | writeStr => exact startBurst_ignoresFlt _ _ s t b h
  | payloadWord g c =>
    simp only [exec, execPayloadWord, State.withFlt] at h ⊢
    cases hs : s.ustate <;> simp only [hs] at h ⊢
    case payload => exact takePayload_ignoresFlt c s t b h
    case drain => exact discardPayload_ignoresFlt c s t b h
    all_goals
      simp only [Host.Outcome.next.injEq] at h
      subst h
      simp [hs]
  | _ => exact chip _ _ h

theorem endCycle_ignoresFlt {f : State → Result} (hf : ignoresFlt f) : ignoresFlt fun s => endCycle (f s) := by
  intro s t b h
  obtain ⟨u, hu, rfl⟩ := endCycle_eq_next h
  dsimp only
  rw [hf s u b hu]
  rfl

/-- Where neither a byte is being sent nor a delay or a response is waited for, a cycle does not read or write FLT. -/
theorem step_withFlt_of_word {s t : State} (hu : s.ustate = .idle ∨ s.ustate = .payload ∨ s.ustate = .drain)
    (hr : s.now.rst = false) (h : step s = .next t) (b : Bool) : step (s.withFlt b) = .next (t.withFlt b) := by
  cases hf : fetch s with
  | some i =>
    rw [step_fetched hr hf] at h
    obtain ⟨u, hu', rfl⟩ := endCycle_eq_next h
    rw [step_fetched (s := s.withFlt b) hr hf, exec_withFlt i (by rcases hu with hu | hu | hu <;> simp [hu]) hu' b]
    rfl
  | none =>
    have hs : ∀ v : State, v.ustate = s.ustate → sequence v = .next v := fun v hv => by
      rcases hu with hu | hu | hu <;> simp [sequence, hv, hu]
    rw [step_sequence hr hf, hs s rfl] at h
    rw [step_sequence (s := s.withFlt b) hr hf, hs (s.withFlt b) rfl]
    simp only [endCycle_next, Host.Outcome.next.injEq] at h ⊢
    subst h
    rfl

/-- What a cycle makes of FLT (R33). -/
def nextFlt (s : State) (b : Bool) : Bool :=
  if s.now.rst then false else b || (isPinState s.ustate && s.now.pinAck && s.now.pinErr)

/-- Overwriting FLT before a cycle changes nothing but FLT after it. -/
theorem step_withFlt {s t : State} (h : step s = .next t) (b : Bool) :
    step (s.withFlt b) = .next (t.withFlt (nextFlt s b)) := by
  cases hr : s.now.rst with
  | true =>
    rw [step_reset hr, Host.Outcome.next.injEq] at h
    rw [step_reset (s := s.withFlt b) hr, ← h]
    simp only [nextFlt, hr, if_true]
    rfl
  | false =>
    have pin : ∀ {op : PinOp} {f : State → State}, isPinState s.ustate = true →
        (∀ s b, f (State.withFlt b s) = (f s).withFlt b) → step s = .next (pinCycle op f s).endCycle →
        step (s.withFlt b) = .next (pinCycle op f (s.withFlt b)).endCycle →
        step (s.withFlt b) = .next (t.withFlt (nextFlt s b)) := by
      intro op f hu hf hs hb
      rw [hs, Host.Outcome.next.injEq] at h
      rw [hb, pinCycle_withFlt op hf, ← h]
      simp only [nextFlt, hr, hu, Bool.true_and, Bool.false_eq_true, if_false]
      rfl
    have blind : isPinState s.ustate = false → step (s.withFlt b) = .next (t.withFlt b) →
        step (s.withFlt b) = .next (t.withFlt (nextFlt s b)) := by
      intro hu hb
      simpa [nextFlt, hr, hu] using hb
    cases hu : s.ustate with
    | idle => exact blind (by simp [hu, isPinState]) (step_withFlt_of_word (.inl hu) hr h b)
    | payload => exact blind (by simp [hu, isPinState]) (step_withFlt_of_word (.inr (.inl hu)) hr h b)
    | drain => exact blind (by simp [hu, isPinState]) (step_withFlt_of_word (.inr (.inr hu)) hr h b)
    | pre =>
      rw [step_pre hr hu] at h
      exact blind (by simp [hu, isPinState])
        ((step_pre (s := s.withFlt b) hr hu).trans (endCycle_ignoresFlt preCycle_ignoresFlt s t b h))
    | hold =>
      rw [step_hold hr hu] at h
      exact blind (by simp [hu, isPinState])
        ((step_hold (s := s.withFlt b) hr hu).trans (endCycle_ignoresFlt holdCycle_ignoresFlt s t b h))
    | post =>
      rw [step_post hr hu] at h
      exact blind (by simp [hu, isPinState])
        ((step_post (s := s.withFlt b) hr hu).trans (endCycle_ignoresFlt postCycle_ignoresFlt s t b h))
    | rsp =>
      rw [step_rsp hr hu] at h
      exact blind (by simp [hu, isPinState])
        ((step_rsp (s := s.withFlt b) hr hu).trans
          (endCycle_ignoresFlt (ignoresFlt_next rspCycle_withFlt) s t b h))
    | rs => exact pin (by simp [hu, isPinState]) (fun _ _ => rfl) (step_rs hr hu) (step_rs (s := s.withFlt b) hr hu)
    | data => exact pin (by simp [hu, isPinState]) (fun _ _ => rfl) (step_data hr hu) (step_data (s := s.withFlt b) hr hu)
    | enHi => exact pin (by simp [hu, isPinState]) (fun _ _ => rfl) (step_enHi hr hu) (step_enHi (s := s.withFlt b) hr hu)
    | enLo =>
      exact pin (by simp [hu, isPinState]) afterPulse_withFlt (step_enLo hr hu) (step_enLo (s := s.withFlt b) hr hu)

/-- Settles O54: overwriting FLT changes nothing else, and overwriting it with its own value says what it becomes. -/
theorem faultFlagIsStickyAndOnlyPinFailuresSetIt : Obligations.FaultFlagIsStickyAndOnlyPinFailuresSetIt := by
  intro s t h
  refine ⟨step_withFlt h, ?_, rfl⟩
  have ht : step s = .next (t.withFlt (nextFlt s s.flt)) := step_withFlt h s.flt
  rw [h, Host.Outcome.next.injEq] at ht
  exact congrArg State.flt ht

end Sys2Proof.Machine
end

section
/-! PROOFS of the statements of 20_memory.md: what a data operation answered ok gives the lines (O26, O27), and what a
cycle makes of LINES and of the trace (O53, O55). -/

namespace Sys2Proof.Machine
variable {s t : State}

/-! ### A data operation answered ok -/

theorem step_data_ok (hu : s.ustate = .data) (hr : s.now.rst = false) (ha : s.now.pinAck = true)
    (he : s.now.pinErr = false) :
    step s = .next (State.endCycle
      { s.pinOk (.data (busData s.busw s.nib s.txb).1 (busData s.busw s.nib s.txb).2) with ustate := .enHi }) := by
  rw [step_data hr hu, dataCycle, pinCycle_ok ha he]

/-- Settles O26: the mask is all ones, so the eight lines hold the byte. -/
theorem eightBitDataOperationDrivesEachLineWithItsBit :
    Obligations.EightBitDataOperationDrivesEachLineWithItsBit := by
  intro s hu hb hr ha he
  refine ⟨_, step_data_ok hu hr ha he, rfl, rfl, rfl, by simp [hb, busData], fun i _ => ?_⟩
  simp [hb, busData, driveLines, mergeBits_full]

/-- On the 4-bit bus the data lines then hold the nibble that NIB selects above the old D3 to D0 (R137). -/
theorem mergeBits_busData_four (nib : Bool) (b old : Byte) :
    mergeBits (busData .four nib b).1 old (busData .four nib b).2 =
      (if nib then b.extractLsb' 0 4 else b.extractLsb' 4 4) ++ old.extractLsb' 0 4 := by
  cases nib <;> exact mergeBits_nibble old _

/-- Settles O27: D7 to D4 are the upper part of the merged byte, D3 to D0 its lower part. -/
theorem fourBitDataOperationDrivesTheUpperLinesWithTheNibble :
    Obligations.FourBitDataOperationDrivesTheUpperLinesWithTheNibble := by
  intro s hu hb hr ha he
  refine ⟨_, step_data_ok hu hr ha he, rfl, rfl, rfl, fun i hi => ?_⟩
  simp only [State.endCycle_lines, State.pinOk_lines, driveLines, hb, mergeBits_busData_four, BitVec.getLsbD_append]
  constructor
  · simp [hi]
  · cases s.nib <;> simp [hi]

/-! ### What a move does to LINES and to the trace -/

/-- The moves of an answered pin operation are the only ones that write LINES (R40, R61). -/
theorem Move.lines_eq (hm : Move s t) (h : ¬(isPinState s.ustate = true ∧ s.now.pinAck = true)) : t.lines = s.lines := by
  cases hm with
  | rsOk hu ha | dataOk hu ha | enHiOk hu ha | nibbleOk hu ha | byteOk hu ha => exact absurd ⟨by rw [hu]; rfl, ha⟩ h
  | failed op hu ho ha => exact absurd ⟨hu, ha⟩ h
  | _ => simp

/-- Settles O53: a cycle is a reset or a move, and a move that is no answered pin operation keeps LINES. -/
theorem linesChangeOnlyByPinOperations : Obligations.LinesChangeOnlyByPinOperations := by
  intro s t hs hl
  rcases step_cases hs with ⟨hr, -⟩ | ⟨-, u, hm, rfl⟩
  · exact .inl hr
  · exact .inr (by_contra fun h => hl (hm.lines_eq h))

/-- A move adds one event or none: an accepted request, a payload word, an answered pin operation, a response taken, and a
delay in its first cycle, add theirs (R75). -/
theorem Move.trace_grows (hm : Move s t) : t.trace = s.trace ∨ ∃ e, t.trace = s.trace ++ [e] := by
  have delay (k : DelayKind) : (delayNoted k s).trace = s.trace ∨ ∃ e, (delayNoted k s).trace = s.trace ++ [e] :=
    (delayNoted_trace k s).imp_right fun h => ⟨_, h⟩
  cases hm with
  | stays => exact .inl rfl
  | initAccepted | sendAccepted | entryAccepted | displayAccepted | emptyBurstAccepted | burstAccepted |
    payloadTaken | payloadDiscarded | rsOk | dataOk | enHiOk | nibbleOk | byteOk | failed | responseTaken =>
    exact .inr ⟨_, rfl⟩
  | delayGoesOn | firstByte | holdOver | nextInitByte | initDone | nextPayload | sendDone => exact delay _

/-- Settles O55: a reset keeps the trace (log 16), and a move adds at most one event. -/
theorem theTraceGrowsByAtMostOneEvent : Obligations.TheTraceGrowsByAtMostOneEvent := by
  intro s t hs
  rcases step_cases hs with ⟨-, rfl⟩ | ⟨-, u, hm, rfl⟩
  · exact .inl rfl
  · exact hm.trace_grows

end Sys2Proof.Machine
end

section
/-! PROOFS of the statements about the decoder and the encoder of 30_encoding.md (O6 to O9). -/

namespace Sys2Proof

/-! ### Request words -/

/-- The table of R92 and R94, a constructor per row: a request word with this opcode is read as `mk` of its argument byte. -/
inductive RequestRow : Byte → (Byte → Instr) → Prop where
  | init8 : RequestRow opInit8 .init8
  | init4 : RequestRow opInit4 .init4
  | clear : RequestRow opClear .clear
  | home : RequestRow opHome .home
  | setCursorPos : RequestRow opSetCursorPos .setCursorPos
  | shiftCursor : RequestRow opShiftCursor fun a => .shiftCursor (flagRest a) (.ofBit (flagBit a))
  | shiftDisplay : RequestRow opShiftDisplay fun a => .shiftDisplay (flagRest a) (.ofBit (flagBit a))
  | setDisplayMode : RequestRow opSetDisplayMode fun a =>
      .setDisplayMode (a.extractLsb' 3 5) (a.getLsbD 2) (a.getLsbD 1) (a.getLsbD 0)
  | setAutoscroll : RequestRow opSetAutoscroll fun a => .setAutoscroll (flagRest a) (flagBit a)
  | setCursorVisibility : RequestRow opSetCursorVisibility fun a => .setCursorVisibility (flagRest a) (flagBit a)
  | setDisplay : RequestRow opSetDisplay fun a => .setDisplay (flagRest a) (flagBit a)
  | setCursorBlink : RequestRow opSetCursorBlink fun a => .setCursorBlink (flagRest a) (flagBit a)
  | setCursorMode : RequestRow opSetCursorMode fun a => .setCursorMode (flagRest a) (.ofBit (flagBit a))
  | writeByte : RequestRow opWriteByte .writeByte
  | writeBytes : RequestRow opWriteBytes .writeBytes

/-- The opcodes of R92. -/
def listedOpcodes : List Byte :=
  [opInit8, opInit4, opClear, opHome, opSetCursorPos, opShiftCursor, opShiftDisplay, opSetDisplayMode, opSetAutoscroll,
    opSetCursorVisibility, opSetDisplay, opSetCursorBlink, opSetCursorMode, opWriteByte, opWriteBytes]

theorem exists_requestRow_iff {op : Byte} : (∃ mk, RequestRow op mk) ↔ op ∈ listedOpcodes := by
  constructor
  · rintro ⟨mk, h⟩
    cases h <;> decide
  · intro h
    simp only [listedOpcodes, List.mem_cons, List.not_mem_nil, or_false] at h
    rcases h with rfl | rfl | rfl | rfl | rfl | rfl | rfl | rfl | rfl | rfl | rfl | rfl | rfl | rfl | rfl <;>
      exact ⟨_, by constructor⟩

theorem decodeRequest_of_row {op : Byte} {mk : Byte → Instr} (h : RequestRow op mk) (a : Byte) :
    decodeRequest (wordOf op a) = .ok (mk a) := by
  unfold decodeRequest
  rw [upperByte_wordOf, lowerByte_wordOf]
  cases h <;> rfl

theorem decodeRequest_of_not_listed {w : Word} (h : upperByte w ∉ listedOpcodes) :
    decodeRequest w = .error (.reservedOpcode (upperByte w)) := by
  simp only [listedOpcodes, List.mem_cons, List.not_mem_nil, or_false, not_or] at h
  simp [decodeRequest, h]

/-- No argument bit is dropped: the word of what a row reads has the argument byte it was read from. -/
theorem encode_of_row {op : Byte} {mk : Byte → Instr} (h : RequestRow op mk) (a : Byte) :
    encode (mk a) = .request (wordOf op a) := by
  cases h with
  | init8 | init4 | clear | home | setCursorPos | writeByte | writeBytes => rfl
  | setDisplayMode => rw [encode, modeArg_parts]
  | shiftCursor | shiftDisplay => rw [encode, ShiftDir.bit_ofBit, flagArg_parts]
  | setCursorMode => rw [encode, CursorDir.bit_ofBit, flagArg_parts]
  | setAutoscroll | setCursorVisibility | setDisplay | setCursorBlink => rw [encode, flagArg_parts]

/-- A request word that decodes was read by a row. -/
theorem row_of_decodeRequest {w : Word} {i : Instr} (h : decodeRequest w = .ok i) :
    ∃ mk, RequestRow (upperByte w) mk ∧ i = mk (lowerByte w) := by
  have listed : upperByte w ∈ listedOpcodes := by
    by_contra hn
    rw [decodeRequest_of_not_listed hn] at h
    cases h
  obtain ⟨mk, hrow⟩ := exists_requestRow_iff.mpr listed
  have hdec := decodeRequest_of_row hrow (lowerByte w)
  rw [wordOf_bytes, h, Except.ok.injEq] at hdec
  exact ⟨mk, hrow, hdec⟩

/-- Settles O9: a row reads the word exactly when its opcode is listed. -/
theorem listedOpcodesDecodeAndNoOthers : Obligations.ListedOpcodesDecodeAndNoOthers := by
  intro w
  refine Iff.trans ?_ exists_requestRow_iff
  constructor
  · rintro ⟨i, h⟩
    obtain ⟨mk, hrow, -⟩ := row_of_decodeRequest h
    exact ⟨mk, hrow⟩
  · rintro ⟨mk, hrow⟩
    have hdec := decodeRequest_of_row hrow (lowerByte w)
    rw [wordOf_bytes] at hdec
    exact ⟨_, hdec⟩

/-! ### Both directions -/

theorem decode_encode_of_row {op : Byte} {mk : Byte → Instr} (h : RequestRow op mk) (a : Byte) :
    decode (encode (mk a)) = .ok (mk a) := by
  rw [encode_of_row h]
  exact decodeRequest_of_row h a

/-- Settles O8, by the place the word is read from. -/
theorem encodeOfDecodeIsTheWord : Obligations.EncodeOfDecodeIsTheWord := by
  intro p i h
  cases p with
  | request w =>
    obtain ⟨mk, hrow, rfl⟩ := row_of_decodeRequest h
    rw [encode_of_row hrow, wordOf_bytes]
  | payload w =>
    rw [decode, Except.ok.injEq] at h
    rw [← h, decodePayload, encode, wordOf_bytes]
  | chip f b => exact Machine.encode_of_decode_chip h

theorem decodeCommand_ddramByte (a : BitVec 7) : decodeCommand (ddramByte a) = .ok (.lcdSetDdramAddr a) := by
  revert a; decide

/-- Settles O7: a request is read back by its opcode's row, a payload word by its two bytes, and a command byte by the
fields of its row; the two mode bytes that are init literals are not well-formed (log 10). -/
theorem decodeOfEncodeIsTheInstruction : Obligations.DecodeOfEncodeIsTheInstruction := by
  intro i hi
  cases i with
  | init8 a => exact decode_encode_of_row .init8 a
  | init4 a => exact decode_encode_of_row .init4 a
  | clear a => exact decode_encode_of_row .clear a
  | home a => exact decode_encode_of_row .home a
  | setCursorPos p => exact decode_encode_of_row .setCursorPos p
  | shiftCursor g d => simpa using decode_encode_of_row .shiftCursor (flagArg g d.bit)
  | shiftDisplay g d => simpa using decode_encode_of_row .shiftDisplay (flagArg g d.bit)
  | setDisplayMode g d c b =>
    obtain ⟨hg, hd, hc, hb⟩ := modeArg_fields g d c b
    simpa only [hg, hd, hc, hb] using decode_encode_of_row .setDisplayMode (modeArg g d c b)
  | setAutoscroll g e => simpa using decode_encode_of_row .setAutoscroll (flagArg g e)
  | setCursorVisibility g v => simpa using decode_encode_of_row .setCursorVisibility (flagArg g v)
  | setDisplay g o => simpa using decode_encode_of_row .setDisplay (flagArg g o)
  | setCursorBlink g o => simpa using decode_encode_of_row .setCursorBlink (flagArg g o)
  | setCursorMode g d => simpa using decode_encode_of_row .setCursorMode (flagArg g d.bit)
  | writeByte v => exact decode_encode_of_row .writeByte v
  | writeBytes n => exact decode_encode_of_row .writeBytes n
  | payloadWord g b => simp [encode, decode, decodePayload]
  | writeChar | writeStr => simp [wellFormed] at hi
  | lcdShift t d => cases t <;> cases d <;> rfl
  | lcdSetDdramAddr a => exact decodeCommand_ddramByte a
  | lcdEntryMode d h => revert hi; cases d <;> cases h <;> decide
  | lcdDisplayMode d c b => revert hi; cases d <;> cases c <;> cases b <;> decide
  | lcdClear | lcdReturnHome | lcdInit30 | lcdInit38 | lcdInit33 | lcdInit32 | lcdInit28 | lcdInit0E | lcdInit07 |
    lcdData => rfl

/-- Settles O6: the request words by the row of their opcode or for want of one, the others by running the decoder. -/
theorem wordsWrittenFromTheTablesDecode : Obligations.WordsWrittenFromTheTablesDecode := by
  refine ⟨decodeRequest_of_row .init8 0#8, decodeRequest_of_row .setCursorPos 200#8,
    decodeRequest_of_row .shiftCursor 0xFF#8, decodeRequest_of_row .setDisplayMode 5#8,
    decodeRequest_of_row .writeBytes 3#8, rfl, rfl, rfl, ?_⟩
  exact decodeRequest_of_not_listed (w := 0xFF00#16) (by decide)

end Sys2Proof
end

section
/-! PROOFS of the statements about words and cycles of 30_encoding.md: a step runs the word it reads (O10, O11), what an
accepted word does (O17 to O19, O22, O24, O25), what is not accepted (O20, O21), the response (O31), the outputs (O57),
the model's own fields (O58) and the two named stops (O59). -/

namespace Sys2Proof.Machine
variable {s t : State} {i : Instr}

/-! ### The word of a cycle -/

theorem fetchWord_idle (hu : s.ustate = .idle) (hv : s.now.opValid = true) :
    fetchWord s = some (.request s.now.opWord) := by
  simp [fetchWord, hu, hv]

theorem fetchWord_burst (hu : s.ustate = .payload ∨ s.ustate = .drain) (hv : s.now.opValid = true) :
    fetchWord s = some (.payload s.now.opWord) := by
  rcases hu with hu | hu <;> simp [fetchWord, hu, hv]

theorem fetchWord_rs (hu : s.ustate = .rs) : fetchWord s = some (.chip s.txf s.txb) := by
  simp [fetchWord, hu]

theorem fetch_of_decode {p : PortWord} (hw : fetchWord s = some p) (hd : decode p = .ok i) : fetch s = some i := by
  simp [fetch, hw, hd]

/-- Settles O10, by the word each of the three places reads. -/
theorem stepRunsTheDecodedInstruction : Obligations.StepRunsTheDecodedInstruction := by
  rintro s i hr (⟨hu, hv, hd⟩ | ⟨hu, hv, hd⟩ | ⟨hu, hd⟩)
  · exact step_fetched hr (fetch_of_decode (fetchWord_idle hu hv) hd)
  · exact step_fetched hr (fetch_of_decode (fetchWord_burst hu hv) hd)
  · exact step_fetched hr (fetch_of_decode (fetchWord_rs hu) hd)

/-- Settles O11: without a word none of the three states has anything to execute. -/
theorem waitingForAWordChangesNothing : Obligations.WaitingForAWordChangesNothing := by
  rintro s hr hv (hu | hu | hu)
  · exact ((step_idle hr hu).resolve_left (by simp [hv])).2
  · exact ((step_payload hr hu).resolve_left (by simp [hv])).2
  · exact ((step_drain hr hu).resolve_left (by simp [hv])).2

/-! ### Request words -/

/-- What the start of an operation does: it keeps the OPC just latched, passes ARG through unread, and leaves IDLE. -/
structure StartsOperation (f : State → State) : Prop where
  opc : ∀ u, (f u).opc = u.opc
  arg : ∀ u b, f { u with arg := b } = { f u with arg := b }
  busy : ∀ u, (f u).ustate ≠ .idle

theorem StartsOperation.arg_eq {f : State → State} (hf : StartsOperation f) (u : State) : (f u).arg = u.arg :=
  (congrArg State.arg (hf.arg u u.arg) :)

/-- `r`, as a function of the argument byte, is a request with opcode `o` whose operand and start do not depend on it. -/
def IsRequest (o : Byte) (r : Byte → State → Result) : Prop :=
  ∃ x f, (∀ a s, r a s = request o a x f s) ∧ StartsOperation f

theorem singleSend_isRequest (o x b : Byte) (f : Bool) : IsRequest o fun a => singleSend o a x b f :=
  ⟨_, _, fun _ _ => rfl, fun _ => rfl, fun _ _ => rfl, fun _ => by simp⟩

theorem mutateEntry_isRequest (o x : Byte) (g : EntryMode → EntryMode) : IsRequest o fun a => mutateEntry o a x g :=
  ⟨_, _, fun _ _ => rfl, fun _ => rfl, fun _ _ => rfl, fun _ => by simp⟩

theorem mutateDisplay_isRequest (o x : Byte) (g : DisplayMode → DisplayMode) :
    IsRequest o fun a => mutateDisplay o a x g :=
  ⟨_, _, fun _ _ => rfl, fun _ => rfl, fun _ _ => rfl, fun _ => by simp⟩

theorem startInit_isRequest (o : Byte) (w : BusWidth) : IsRequest o fun a => startInit o a w :=
  ⟨_, _, fun _ _ => rfl, fun _ => rfl, fun _ _ => rfl, fun _ => by simp⟩

theorem startsOperation_burst (n : Byte) : StartsOperation fun t =>
    if n = 0#8 then State.respond .ok { t with bcnt := n } else { t with bcnt := n, ustate := .payload } := by
  by_cases hn : n = 0#8
  · simp only [hn, if_true]
    exact ⟨fun _ => rfl, fun _ _ => rfl, fun _ => by simp⟩
  · simp only [hn, if_false]
    exact ⟨fun _ => rfl, fun _ _ => rfl, fun _ => by simp⟩

theorem IsRequest.apply {o : Byte} {r : Byte → State → Result} (h : IsRequest o r) (a : Byte) (s : State) :
    ∃ x f, r a s = request o a x f s ∧ StartsOperation f := by
  obtain ⟨x, f, hr, hf⟩ := h
  exact ⟨x, f, hr a s, hf⟩

/-- The meaning of an instruction whose word is a request is that word at the request port (R91). -/
theorem exec_of_encode_request {w : Word} (h : encode i = .request w) (s : State) :
    ∃ x f, exec i s = request (upperByte w) (lowerByte w) x f s ∧ StartsOperation f := by
  cases i <;> simp only [encode, PortWord.request.injEq, reduceCtorEq] at h <;> subst h <;>
    rw [upperByte_wordOf, lowerByte_wordOf]
  case init8 | init4 => exact (startInit_isRequest _ _).apply _ s
  case writeBytes n | writeStr n => exact ⟨n, _, rfl, startsOperation_burst n⟩
  case setAutoscroll | setCursorMode =>
    simp only [exec, execSetAutoscroll, execSetCursorMode]
    exact (mutateEntry_isRequest _ _ _).apply _ s
  case setDisplayMode | setCursorVisibility | setDisplay | setCursorBlink =>
    simp only [exec, execSetDisplayMode, execSetCursorVisibility, execSetDisplay, execSetCursorBlink]
    exact (mutateDisplay_isRequest _ _ _).apply _ s
  all_goals exact (singleSend_isRequest _ _ _ _).apply _ s

theorem encode_of_decodeRequest {w : Word} (h : decodeRequest w = .ok i) : encode i = .request w :=
  encodeOfDecodeIsTheWord (.request w) i h

theorem decodeRequest_of_admissible {w : Word} {p : Phase} (h : admissible p (upperByte w) = true) :
    ∃ i, decodeRequest w = .ok i := by
  cases hd : decodeRequest w with
  | ok i => exact ⟨i, rfl⟩
  | error e => simp [not_admissible_of_error hd p] at h

/-- In IDLE the word is taken when its opcode is admissible; that such a word decodes adds nothing. -/
theorem wouldTake_idle (hu : s.ustate = .idle) : wouldTake s = admissible s.phase (upperByte s.now.opWord) := by
  simp only [wouldTake, hu]
  cases hd : decodeRequest s.now.opWord with
  | ok i => rfl
  | error e => exact (not_admissible_of_error hd _).symm

theorem step_request_taken (hu : s.ustate = .idle) (hr : s.now.rst = false) (hv : s.now.opValid = true)
    (ha : admissible s.phase (upperByte s.now.opWord) = true) :
    ∃ x f, StartsOperation f ∧
      step s = .next (f (s.latch (upperByte s.now.opWord) (lowerByte s.now.opWord) x)).endCycle := by
  obtain ⟨i, hd⟩ := decodeRequest_of_admissible ha
  obtain ⟨x, f, he, hf⟩ := exec_of_encode_request (encode_of_decodeRequest hd) s
  refine ⟨x, f, hf, ?_⟩
  rw [step_fetched hr (fetch_of_decode (fetchWord_idle hu hv) hd), he, request_taken hu ha, endCycle_next]

theorem step_request_not_taken (hu : s.ustate = .idle) (hr : s.now.rst = false)
    (ha : admissible s.phase (upperByte s.now.opWord) = false) : step s = .next s.endCycle := by
  rcases step_idle hr hu with ⟨-, i, hd, hs⟩ | ⟨-, hs⟩
  · obtain ⟨x, f, he, -⟩ := exec_of_encode_request (encode_of_decodeRequest hd) s
    rw [hs, he, request_not_taken (.inr ha), endCycle_next]
  · exact hs

/-- Settles O22: without reset op_ready in IDLE is admissibility, which decides between the two steps. -/
theorem opReadyTellsWhetherARequestIsTaken : Obligations.OpReadyTellsWhetherARequestIsTaken := by
  intro s hu hr hv
  have ready : (outputs s).opReady = admissible s.phase (upperByte s.now.opWord) := by
    simp [outputs, hr, wouldTake_idle hu]
  rw [ready]
  constructor
  · intro ha
    obtain ⟨x, f, hf, hs⟩ := step_request_taken hu hr hv ha
    exact ⟨_, hs, hf.opc _, hf.arg_eq _, hf.busy _⟩
  · exact step_request_not_taken hu hr

/-- Another argument byte changes nothing but ARG. -/
theorem IsRequest.arg_ignored {o a : Byte} {r : Byte → State → Result} (h : IsRequest o r) (hs : r a s = .next t)
    (a' : Byte) : ∃ b, r a' s = .next { t with arg := b } := by
  obtain ⟨x, f, hr, hf⟩ := h
  rw [hr] at hs
  rw [hr]
  rcases request_cases o a x f s with ⟨hu, ha, he⟩ | ⟨hn, he⟩
  · rw [he, Host.Outcome.next.injEq] at hs
    subst hs
    exact ⟨a', (request_taken hu ha).trans (congrArg _ (hf.arg (s.latch o a x) a'))⟩
  · rw [he, Host.Outcome.next.injEq] at hs
    subst hs
    exact ⟨s.arg, request_not_taken hn⟩

/-- Settles O24: the twelve operations put the unused bits into ARG only. -/
theorem unusedArgumentBitsChangeOnlyArg : Obligations.UnusedArgumentBitsChangeOnlyArg := by
  refine fun s => ⟨?_, ?_, ?_⟩
  · rintro g g' i i' (⟨rfl, rfl⟩ | ⟨rfl, rfl⟩ | ⟨rfl, rfl⟩ | ⟨rfl, rfl⟩) t h
    · exact (startInit_isRequest _ _).arg_ignored h g'
    · exact (startInit_isRequest _ _).arg_ignored h g'
    · exact (singleSend_isRequest _ _ _ _).arg_ignored h g'
    · exact (singleSend_isRequest _ _ _ _).arg_ignored h g'
  · rintro g g' i i' (⟨d, rfl, rfl⟩ | ⟨d, rfl, rfl⟩ | ⟨e, rfl, rfl⟩ | ⟨v, rfl, rfl⟩ | ⟨o, rfl, rfl⟩ | ⟨o, rfl, rfl⟩ |
      ⟨d, rfl, rfl⟩) t h <;>
      simp only [exec, execSetAutoscroll, execSetCursorVisibility, execSetDisplay, execSetCursorBlink,
        execSetCursorMode] at h ⊢
    · exact (singleSend_isRequest _ _ _ _).arg_ignored h (flagArg g' d.bit)
    · exact (singleSend_isRequest _ _ _ _).arg_ignored h (flagArg g' d.bit)
    · exact (mutateEntry_isRequest _ _ _).arg_ignored h (flagArg g' e)
    · exact (mutateDisplay_isRequest _ _ _).arg_ignored h (flagArg g' v)
    · exact (mutateDisplay_isRequest _ _ _).arg_ignored h (flagArg g' o)
    · exact (mutateDisplay_isRequest _ _ _).arg_ignored h (flagArg g' o)
    · exact (mutateEntry_isRequest _ _ _).arg_ignored h (flagArg g' d.bit)
  · intro g g' d c b t h
    simp only [exec, execSetDisplayMode] at h ⊢
    exact (mutateDisplay_isRequest _ _ _).arg_ignored h (modeArg g' d c b)

theorem admissible_ready_writeBytes : admissible .ready opWriteBytes = true := by decide

theorem exec_burst_header {n : Byte} (h : i = .writeBytes n ∨ i = .writeStr n) (s : State) :
    exec i s = startBurst opWriteBytes n s := by
  rcases h with rfl | rfl <;> rfl

/-- Settles O17: both headers are that of a burst, taken in READY, and n decides how it goes on. -/
theorem burstHeadersLoadTheCount : Obligations.BurstHeadersLoadTheCount := by
  intro s hu hp
  have taken : ∀ {n : Byte} {f : State → State},
      request opWriteBytes n n f s = .next (f (s.latch opWriteBytes n n)) :=
    request_taken hu (hp ▸ admissible_ready_writeBytes)
  constructor
  · intro i hi
    rw [exec_burst_header hi, startBurst, taken]
    rfl
  · intro n i hn hi
    rw [exec_burst_header hi, startBurst, taken, if_neg hn]
    rfl

/-! ### Payload words -/

theorem exec_payloadWord_payload (hu : s.ustate = .payload) (g b : Byte) :
    exec (.payloadWord g b) s = takePayload b s := by
  simp [exec, execPayloadWord, hu]

theorem exec_payloadWord_drain (hu : s.ustate = .drain) (g b : Byte) :
    exec (.payloadWord g b) s = discardPayload b s := by
  simp [exec, execPayloadWord, hu]

theorem exec_payloadWord_elsewhere (hp : s.ustate ≠ .payload) (hd : s.ustate ≠ .drain) (g b : Byte) :
    exec (.payloadWord g b) s = .next s := by
  cases hu : s.ustate <;> simp_all [exec, execPayloadWord]

/-- Settles O18: a word is taken in PAYLOAD and discarded in DRAIN, and BCNT = 1 tells the last one. -/
theorem payloadWordsAreTakenOrDiscarded : Obligations.PayloadWordsAreTakenOrDiscarded := by
  intro g b s hb
  refine ⟨fun hu => ?_, fun hu h1 => ?_, fun hu h1 => ?_⟩
  · rw [exec_payloadWord_payload hu, takePayload, if_neg hb]
    rfl
  · rw [exec_payloadWord_drain hu, discardPayload, if_neg hb, if_pos h1, h1]
    rfl
  · rw [exec_payloadWord_drain hu, discardPayload, if_neg hb, if_neg h1]

/-- Settles O25: the meaning of a payload word does not mention its upper byte. -/
theorem payloadUpperByteMakesNoDifference : Obligations.PayloadUpperByteMakesNoDifference :=
  fun _ _ _ _ => rfl

/-! ### Chip bytes -/

/-- A chip byte in RS, the RS operation answered ok, begins its Transmit (R130, R131). -/
theorem exec_chip_begins {f : Bool} {b : Byte} (h : encode i = .chip f b) (hu : s.ustate = .rs)
    (ha : s.now.pinAck = true) (he : s.now.pinErr = false) : exec i s = .next (transmitBegun b f s) := by
  rw [exec_chip h, transmit_begins hu, rsCycle, pinCycle_ok (s := { s with txb := b, txf := f }) ha he]
  rfl

theorem entryByte_eq_encEntry (d : CursorDir) (h : Bool) : entryByte d h = encEntry defaultParams ⟨h, d⟩ := by
  cases d <;> cases h <;> rfl

theorem displayByte_eq_encDisplay (d c b : Bool) : displayByte d c b = encDisplay defaultParams ⟨d, c, b⟩ := by
  cases d <;> cases c <;> cases b <;> rfl

/-- Settles O19: each row's byte begins its Transmit; the two mode bytes are the default encoders'. -/
theorem chipBytesBeginTheirTransmit : Obligations.ChipBytesBeginTheirTransmit := by
  intro s hu ha he
  have begins : ∀ {i : Instr} {f : Bool} {b : Byte}, encode i = .chip f b → exec i s = .next (transmitBegun b f s) :=
    fun h => exec_chip_begins h hu ha he
  exact ⟨begins rfl, begins rfl, begins rfl, begins rfl, begins rfl, begins rfl, fun _ => begins rfl,
    fun d h => begins (congrArg _ (entryByte_eq_encEntry d h)),
    fun d c b => begins (congrArg _ (displayByte_eq_encDisplay d c b)),
    begins rfl, begins rfl, begins rfl, begins rfl, begins rfl, begins rfl, begins rfl, fun _ => begins rfl⟩

/-! ### What is not accepted -/

/-- Settles O20: the table by phase, and while initialising the invariant has a byte on its way. -/
theorem admissibleOpcodesByPhase : Obligations.AdmissibleOpcodesByPhase := by
  constructor
  · intro p o
    cases p <;> simp [admissible, opInit8, opInit4, opClear, opHome, opSetCursorPos, opShiftCursor, opShiftDisplay,
      opSetDisplayMode, opSetAutoscroll, opSetCursorVisibility, opSetDisplay, opSetCursorBlink, opSetCursorMode,
      opWriteByte, opWriteBytes]
  · intro s h hp hu
    obtain ⟨hbusy, -, -⟩ := h.initialising hp
    simp [hu, isSendState] at hbusy

/-- Settles O21, by the place the instruction's word is read from. -/
theorem wordsNotTakenHaveNoEffect : Obligations.WordsNotTakenHaveNoEffect := by
  refine fun i s => ⟨fun w h hn => ?_, fun w h hp hd => ?_, fun f b h hu => ?_⟩
  · obtain ⟨x, f, he, -⟩ := exec_of_encode_request h s
    rw [he, request_not_taken hn]
  · cases i <;> simp only [encode, reduceCtorEq] at h
    exact exec_payloadWord_elsewhere hp hd _ _
  · rw [exec_chip h, transmit_elsewhere hu]

/-! ### The response -/

/-- Settles O31, by the two cases of the RSP cycle. -/
theorem takingTheResponseEndsTheOperation : Obligations.TakingTheResponseEndsTheOperation := by
  intro s hu hr
  rw [step_rsp hr hu]
  constructor
  · intro hy
    simp [rspCycle, hy]
  · intro hy
    rw [rspCycle, if_pos hy]
    rfl

/-! ### Outputs -/

theorem pinOpOf_isSome (s : State) : (pinOpOf s).isSome = isPinState s.ustate := by
  cases hu : s.ustate <;> simp [pinOpOf, isPinState, hu]

theorem pinPortOf_of_pinOpOf {op : PinOp} (hr : s.now.rst = false) (ho : pinOpOf s = some op) :
    pinPortOf s = some (pinPort op) := by
  simp [pinPortOf, hr, ho]

theorem flagByte_bit_zero (b : Bool) : (flagByte b).getLsbD 0 = b := flagBit_flagArg 0#7 b

/-- The multiplexer puts the upper nibble on D7 to D4 (R137). -/
theorem busData_four_upper (b : Byte) : busData .four false b = (0xF0#8, b &&& 0xF0#8) := by
  revert b; decide

/-- The multiplexer puts the lower nibble on D7 to D4 (R137). -/
theorem busData_four_lower (b : Byte) : busData .four true b = (0xF0#8, b <<< 4) := by
  revert b; decide

theorem opReady_iff (s : State) : (outputs s).opReady = true ↔ s.now.rst = false ∧
    ((s.ustate = .idle ∧ admissible s.phase (upperByte s.now.opWord) = true) ∨ s.ustate = .payload ∨ s.ustate = .drain) := by
  have takes : wouldTake s = true ↔ (s.ustate = .idle ∧ admissible s.phase (upperByte s.now.opWord) = true) ∨
      s.ustate = .payload ∨ s.ustate = .drain := by
    by_cases hi : s.ustate = .idle
    · simp [wouldTake_idle hi, hi]
    · cases hu : s.ustate <;> simp_all [wouldTake]
  simp [outputs, takes]

theorem pinReq_iff (s : State) : (outputs s).pinReq = true ↔ s.now.rst = false ∧ isPinState s.ustate = true := by
  rw [← pinOpOf_isSome]
  cases hr : s.now.rst <;> simp [outputs, pinPortOf, hr]

/-- The pin outputs show the operation that is being issued (R144). -/
theorem pin_outputs {op : PinOp} (hr : s.now.rst = false) (ho : pinOpOf s = some op) :
    (outputs s).pinKind = some (pinPort op).kind ∧ (outputs s).pinMask = (pinPort op).mask ∧
      (outputs s).pinVal = some (pinPort op).val := by
  simp [outputs, pinPortOf_of_pinOpOf hr ho]

theorem pinMask_eq_zero (h : (outputs s).pinReq = false ∨ s.ustate ≠ .data) : (outputs s).pinMask = 0#8 := by
  rcases h with hreq | hu
  · have silent : pinPortOf s = none := by simpa [outputs] using hreq
    simp [outputs, silent]
  · cases hr : s.now.rst with
    | true => simp [outputs, pinPortOf, hr]
    | false => cases hs : s.ustate <;> simp_all [outputs, pinPortOf, pinOpOf, pinPort]

/-- Settles O57: op_ready and the pin port by the lemmas above, the other outputs field by field. -/
theorem outputsAreThoseOfTheState : Obligations.OutputsAreThoseOfTheState := by
  intro s
  refine ⟨opReady_iff s, pinReq_iff s, fun hreq => ?_, pinMask_eq_zero, ?_⟩
  · obtain ⟨hr, -⟩ := (pinReq_iff s).mp hreq
    refine ⟨fun hu => ?_, fun hu => ?_, fun hu => ?_, fun hu => ?_⟩
    · obtain ⟨hk, -, hv⟩ := pin_outputs (op := .rs s.txf) hr (by simp [pinOpOf, hu])
      exact ⟨hk, _, hv, flagByte_bit_zero _⟩
    · obtain ⟨hk, hm, hv⟩ := pin_outputs (op := .data (busData s.busw s.nib s.txb).1 (busData s.busw s.nib s.txb).2) hr
        (by simp [pinOpOf, hu])
      rw [hk, hm, hv]
      refine ⟨rfl, fun hb => ?_, fun hb hn => ?_, fun hb hn => ?_⟩
      · rw [hb]; exact ⟨rfl, rfl⟩
      · rw [hb, hn, busData_four_upper]; exact ⟨rfl, rfl⟩
      · rw [hb, hn, busData_four_lower]; exact ⟨rfl, rfl⟩
    · obtain ⟨hk, -, hv⟩ := pin_outputs (op := .en true) hr (by simp [pinOpOf, hu])
      exact ⟨hk, _, hv, flagByte_bit_zero _⟩
    · obtain ⟨hk, -, hv⟩ := pin_outputs (op := .en false) hr (by simp [pinOpOf, hu])
      exact ⟨hk, _, hv, flagByte_bit_zero _⟩
  · refine ⟨?_, ?_, ?_, ?_, rfl, rfl, rfl, rfl⟩
    · simp [outputs]
    · cases hc : s.rspc <;> simp [outputs, rspBit, hc]
    · simp [outputs, readyO]
    · simp [outputs, busyO]

/-! ### The model's own fields -/

theorem Move.cfg_eq (hm : Move s t) : t.cfg = s.cfg := by cases hm <;> simp

theorem Move.inputs_eq (hm : Move s t) : t.inputs = s.inputs := by cases hm <;> simp

/-- Settles O58: neither a reset nor a move writes the parameters or the inputs, and the end of the cycle drops one. -/
theorem parametersStayAndInputsMoveOn : Obligations.ParametersStayAndInputsMoveOn := by
  intro s t hs
  rcases step_cases hs with ⟨-, rfl⟩ | ⟨-, u, hm, rfl⟩
  · exact ⟨rfl, rfl⟩
  · exact ⟨hm.cfg_eq, congrArg List.tail hm.inputs_eq⟩

/-! ### The named stops -/

theorem endCycle_eq_fault {o : Result} {r : Fault} (h : endCycle o = .fault r) : o = .fault r := by
  cases o <;> simp_all

theorem request_no_fault {o a x : Byte} {f : State → State} {r : Fault} : request o a x f s ≠ .fault r := by
  rcases request_cases o a x f s with ⟨-, -, he⟩ | ⟨-, he⟩ <;> simp [he]

theorem romOf_length (c : Params) (e : EntryMode) (w : BusWidth) : (romOf c e w).length = romLen w := by
  cases w <;> rfl

/-- The ROM has a byte exactly at the positions below its length (R115, R116). -/
theorem romAt_eq_none_iff {c : Params} {e : EntryMode} {w : BusWidth} {n : Nat} :
    romAt c e w n = none ↔ romLen w ≤ n := by
  rw [romAt, List.getElem?_eq_none_iff, romOf_length]

/-- A delay stops only as what follows it does. -/
theorem fault_of_delayCycle {k : DelayKind} {f : State → Result} {r : Fault} (h : delayCycle k f s = .fault r) :
    f (delayOver k s) = .fault r := by
  by_cases ht : s.tmr ≤ 1
  · rwa [delayCycle_ends ht] at h
  · rw [delayCycle_goes_on (by omega)] at h
    cases h

theorem preCycle_no_fault {r : Fault} : preCycle s ≠ .fault r := by
  intro h
  have hb := fault_of_delayCycle h
  cases hrom : romAt s.cfg s.entry s.busw 0 with
  | some b => simp [hrom] at hb
  | none => cases hw : s.busw <;> simp [romAt_eq_none_iff, romLen, hw] at hrom

theorem holdCycle_no_fault {r : Fault} : holdCycle s ≠ .fault r := by
  intro h
  cases fault_of_delayCycle h

/-- The end of a send stops only while initialising, at a position beyond the end of the ROM (log 14). -/
theorem fault_of_afterSend {r : Fault} (h : afterSend s = .fault r) :
    r = .romIndex ∧ s.phase = .initialising ∧ romLen s.busw < s.seqPc.toNat + 1 := by
  unfold afterSend at h
  split at h
  · next hp =>
    unfold afterInitByte at h
    split at h
    · cases h
    · next hl =>
      split at h
      · cases h
      · next hrom =>
        rw [romAt_eq_none_iff] at hrom
        exact ⟨by simpa using h.symm, hp, lt_of_le_of_ne hrom (Ne.symm hl)⟩
  · split at h <;> cases h

theorem fault_of_postCycle {r : Fault} (h : postCycle s = .fault r) :
    r = .romIndex ∧ s.phase = .initialising ∧ romLen s.busw < s.seqPc.toNat + 1 := by
  simpa using fault_of_afterSend (fault_of_delayCycle h)

theorem fault_of_takePayload {b : Byte} {r : Fault} (h : takePayload b s = .fault r) :
    r = .burstCount ∧ s.bcnt = 0#8 := by
  unfold takePayload at h
  split at h
  · next hb => exact ⟨by simpa using h.symm, hb⟩
  · cases h

theorem fault_of_discardPayload {b : Byte} {r : Fault} (h : discardPayload b s = .fault r) :
    r = .burstCount ∧ s.bcnt = 0#8 := by
  unfold discardPayload at h
  split at h
  · next hb => exact ⟨by simpa using h.symm, hb⟩
  · cases h

theorem Inv.seqPc_in_rom (h : Inv s) (hp : s.phase = .initialising) : ¬ romLen s.busw < s.seqPc.toNat + 1 := by
  obtain ⟨-, -, hlt⟩ := h.initialising hp
  omega

/-- What a cycle that stops with a fault has found, by the state it was in. -/
theorem fault_of_step {r : Fault} (h : step s = .fault r) :
    (r = .burstCount ∧ (s.ustate = .payload ∨ s.ustate = .drain) ∧ s.bcnt = 0#8) ∨
      (r = .romIndex ∧ s.phase = .initialising ∧ s.ustate = .post ∧ romLen s.busw < s.seqPc.toNat + 1) := by
  cases hr : s.now.rst with
  | true => simp [step_reset hr] at h
  | false =>
    cases hu : s.ustate with
    | idle =>
      rcases step_idle hr hu with ⟨-, i, hd, hs⟩ | ⟨-, hs⟩
      · obtain ⟨x, f, he, -⟩ := exec_of_encode_request (encode_of_decodeRequest hd) s
        rw [hs, he] at h
        exact absurd (endCycle_eq_fault h) request_no_fault
      · simp [hs] at h
    | pre =>
      rw [step_pre hr hu] at h
      exact absurd (endCycle_eq_fault h) preCycle_no_fault
    | hold =>
      rw [step_hold hr hu] at h
      exact absurd (endCycle_eq_fault h) holdCycle_no_fault
    | post =>
      rw [step_post hr hu] at h
      obtain ⟨h1, h2, h3⟩ := fault_of_postCycle (endCycle_eq_fault h)
      exact .inr ⟨h1, h2, rfl, h3⟩
    | payload =>
      rcases step_payload hr hu with ⟨-, hs⟩ | ⟨-, hs⟩ <;> rw [hs] at h
      · obtain ⟨h1, h2⟩ := fault_of_takePayload (endCycle_eq_fault h)
        exact .inl ⟨h1, .inl rfl, h2⟩
      · cases h
    | drain =>
      rcases step_drain hr hu with ⟨-, hs⟩ | ⟨-, hs⟩ <;> rw [hs] at h
      · obtain ⟨h1, h2⟩ := fault_of_discardPayload (endCycle_eq_fault h)
        exact .inl ⟨h1, .inr rfl, h2⟩
      · cases h
    | rs => simp [step_rs hr hu] at h
    | data => simp [step_data hr hu] at h
    | enHi => simp [step_enHi hr hu] at h
    | enLo => simp [step_enLo hr hu] at h
    | rsp => simp [step_rsp hr hu] at h

/-- Settles O59: the register values of either stop contradict the invariant. -/
theorem theTwoFaultsNeedUnreachableRegisters : Obligations.TheTwoFaultsNeedUnreachableRegisters := by
  intro s r hs
  have found := fault_of_step hs
  refine ⟨found, fun h => ?_⟩
  rcases found with ⟨-, hu, hb⟩ | ⟨-, hp, -, hl⟩
  · exact h.wordsToCome hu hb
  · exact h.seqPc_in_rom hp hl

end Sys2Proof.Machine
end

section
/-! PROOFS of the statements of 40_bus_transactions.md: a pin operation that waits (O28) or fails (O30), the multiplexer
(O33), and a whole Transmit on either bus (O34, O35). -/

namespace Sys2Proof.Machine
variable {s : State}

/-! ### A pin operation that waits, and one that fails -/

/-- A cycle that issues a pin operation is a cycle of that operation (R140). -/
theorem step_pin {op : PinOp} (hr : s.now.rst = false) (ho : pinOpOf s = some op) :
    ∃ onOk, step s = .next (pinCycle op onOk s).endCycle := by
  cases hu : s.ustate <;> simp only [pinOpOf, hu, Option.some.injEq, reduceCtorEq] at ho <;> subst ho
  case rs => exact ⟨_, step_rs hr hu⟩
  case data => exact ⟨_, step_data hr hu⟩
  case enHi => exact ⟨_, step_enHi hr hu⟩
  case enLo => exact ⟨_, step_enLo hr hu⟩

theorem step_pin_waits {op : PinOp} (hr : s.now.rst = false) (ho : pinOpOf s = some op) (ha : s.now.pinAck = false) :
    step s = .next s.endCycle := by
  obtain ⟨onOk, h⟩ := step_pin hr ho
  rw [h, pinCycle_waits ha]

theorem step_pin_fails {op : PinOp} (hr : s.now.rst = false) (ho : pinOpOf s = some op) (ha : s.now.pinAck = true)
    (he : s.now.pinErr = true) : step s = .next (s.pinFailure op).endCycle := by
  obtain ⟨onOk, h⟩ := step_pin hr ho
  rw [h, pinCycle_fails ha he]

/-- The pin operation issued does not depend on the inputs, so without a reset the pin ports stay as they are. -/
theorem pinPortOf_endCycle (hr : s.now.rst = false) (hr' : s.endCycle.now.rst = false) :
    pinPortOf s.endCycle = pinPortOf s := by
  have same : pinOpOf s.endCycle = pinOpOf s := rfl
  simp [pinPortOf, hr, hr', same]

/-- Settles O28: the cycle ends with nothing changed, and the pin ports show the same operation in the next one. -/
theorem anUnansweredPinOperationWaits : Obligations.AnUnansweredPinOperationWaits := by
  intro s hu hr ha
  obtain ⟨op, ho⟩ := Option.isSome_iff_exists.mp ((pinOpOf_isSome s).trans hu)
  refine ⟨step_pin_waits hr ho ha, (pinReq_iff s).mpr ⟨hr, hu⟩, fun hr' => ?_⟩
  have ports := pinPortOf_endCycle hr hr'
  exact ⟨(pinReq_iff _).mpr ⟨hr', hu⟩, by simp [outputs, ports]⟩

/-- Each line after a failed data operation: old, or touched and new (R132, R139). -/
theorem partialDriveLines_data_bit (mask v r : Byte) (l : Lines) {i : Nat} (hi : i < 8) :
    (partialDriveLines (.data mask v) r l).d.getLsbD i = l.d.getLsbD i ∨
      (mask.getLsbD i = true ∧ (partialDriveLines (.data mask v) r l).d.getLsbD i = v.getLsbD i) := by
  simp only [partialDriveLines, mergeBits_bit _ _ _ _ hi, BitVec.getLsbD_and, Bool.and_eq_true]
  split
  next touched => exact .inr ⟨touched.1, rfl⟩
  next => exact .inl rfl

/-- Settles O30: the step is the exception, and it leaves the lines as `partialDriveLines` says, whatever the free value. -/
theorem pinFailureLeavesTouchedLinesOldOrNew : Obligations.PinFailureLeavesTouchedLinesOldOrNew := by
  intro s hr ha he
  have fails (op : PinOp) (ho : pinOpOf s = some op) := step_pin_fails hr ho ha he
  refine ⟨fun hu => ?_, fun hu => ?_, fun hu => ?_, fun hu => ?_⟩
  · exact ⟨_, fails (.rs s.txf) (by simp [pinOpOf, hu]), (ite_eq_or_eq _ _ _).symm, rfl, rfl⟩
  · exact ⟨_, fails (.data (busData s.busw s.nib s.txb).1 (busData s.busw s.nib s.txb).2) (by simp [pinOpOf, hu]),
      rfl, rfl, fun _ => partialDriveLines_data_bit _ _ _ _⟩
  · exact ⟨_, fails (.en true) (by simp [pinOpOf, hu]), rfl, rfl, (ite_eq_or_eq _ _ _).symm⟩
  · exact ⟨_, fails (.en false) (by simp [pinOpOf, hu]), rfl, rfl, (ite_eq_or_eq _ _ _).symm⟩

/-! ### The multiplexer -/

/-- Settles O33: the 8-bit case by definition, the nibbles by their lemmas. -/
theorem multiplexerByBusWidthAndNibble : Obligations.MultiplexerByBusWidthAndNibble :=
  fun b _ => ⟨rfl, busData_four_upper b, busData_four_lower b⟩

/-! ### Transactions and Transmit -/

section
variable {mask v : Byte} (hv : ValidParams s.cfg) (hu : s.ustate = .data) (hd : busData s.busw s.nib s.txb = (mask, v))
include hv hu hd

/-- The first three events of a transaction (R133): the data lines are driven, EN rises and is held. -/
theorem runs_raise :
    Runs [.pin (.data mask v) .ok, .pin (.en true) .ok, .wait .hold] s
      { s with
        ustate := .enLo
        tmr := 0
        lines := ⟨s.lines.rs, true, mergeBits mask s.lines.d v⟩
        trace := s.trace ++ [.pin (.data mask v) .ok, .pin (.en true) .ok, .wait .hold] } := by
  have run := (runs_data hu).trans rfl ((runs_enHi rfl).trans rfl (runs_hold hv rfl rfl))
  simpa [hd, State.pinOk, State.enterDelay, driveLines] using run

/-- The transaction of the upper nibble leads back to DATA, for the lower one (R136). -/
theorem runs_xact_upper (hb : s.busw = .four) (hn : s.nib = false) :
    Runs (xactEvents mask v) s
      { s with
        nib := true
        tmr := 0
        lines := ⟨s.lines.rs, false, mergeBits mask s.lines.d v⟩
        trace := s.trace ++ xactEvents mask v } := by
  have run := (runs_raise hv hu hd).trans rfl (runs_enLo_nibble rfl hb hn)
  simpa [xactEvents, State.pinOk, driveLines, hu] using run

/-- The only transaction of a byte, or the one of its lower nibble, leads to POST (R135, R136). -/
theorem runs_xact_last (hb : s.busw = .eight ∨ s.nib = true) :
    Runs (xactEvents mask v) s
      { s with
        ustate := .post
        tmr := ticksOf s.cfg (postDelay s)
        lines := ⟨s.lines.rs, false, mergeBits mask s.lines.d v⟩
        trace := s.trace ++ xactEvents mask v } := by
  have run := (runs_raise hv hu hd).trans rfl (runs_enLo_byte rfl hb)
  simpa [xactEvents, State.pinOk, State.enterDelay, driveLines, postDelay] using run

end

/-- The state in which a Transmit of TXB with flag TXF leaves the block (R135, R136): POST just entered. -/
def State.transmitted (s : State) : State :=
  { s with
    nib := decide (s.busw = .four)
    ustate := .post
    tmr := ticksOf s.cfg (postDelay s)
    lines := linesAfter s.busw s.txb s.txf s.lines
    trace := s.trace ++ transmitEvents s.busw s.txb s.txf }

/-- The lower nibble of a byte put together from two (BitVec.extractLsb'_append_eq_right at the width `simp` looks for). -/
theorem lowNibble_append (hi lo : Nibble) : BitVec.extractLsb' 0 4 (hi ++ lo : Byte) = lo :=
  BitVec.extractLsb'_append_eq_right

/-- A Transmit is the RS operation and then one transaction on the 8-bit bus, two on the 4-bit bus. -/
theorem runs_transmit (hv : ValidParams s.cfg) (hu : s.ustate = .rs) :
    Runs (transmitEvents s.busw s.txb s.txf) s s.transmitted := by
  have begun := runs_rs hu
  cases hb : s.busw with
  | eight =>
    have run := begun.trans rfl (runs_xact_last hv rfl (congrArg (busData · _ _) hb) (.inl hb))
    simpa [hb, transmitEvents, State.transmitted, linesAfter, State.pinOk, driveLines, postDelay, mergeBits_full] using run
  | four =>
    have upper := begun.trans rfl (runs_xact_upper hv rfl (congrArg (busData · _ _) hb) hb rfl)
    have run := upper.trans rfl (runs_xact_last hv rfl (congrArg (busData · _ _) hb) (.inr rfl))
    simpa [hb, transmitEvents, State.transmitted, linesAfter, State.pinOk, driveLines, postDelay, mergeBits_nibble,
      lowNibble_append] using run

/-- Settles O34: the events and the lines of a Transmit, for the 8-bit bus. -/
theorem transmitOnTheEightBitBus : Obligations.TransmitOnTheEightBitBus := by
  intro s ins rest hv hu hb hs hi
  rw [← hb] at hs
  simpa [State.transmitted, hb, linesAfter, transmitEvents, xactEvents] using (runs_transmit hv hu).of_inputs hi hs

/-- Settles O35: the events and the lines of a Transmit, for the 4-bit bus. -/
theorem transmitOnTheFourBitBus : Obligations.TransmitOnTheFourBitBus := by
  intro s ins rest hv hu hb hs hi
  rw [← hb] at hs
  simpa [State.transmitted, hb, linesAfter, transmitEvents, xactEvents] using (runs_transmit hv hu).of_inputs hi hs

end Sys2Proof.Machine
end

section
/-! PROOFS of the statements of 41_init_sequences.md: the acceptance of an init operation (O12), SEQ_PC (O56), the whole
sequence when every pin operation is answered ok (O43, O44), and its order whatever the answers (O49). -/

namespace Sys2Proof.Machine
variable {s t : State}

/-! ### The acceptance of an init operation -/

/-- An init operation has been accepted: its REQ is recorded, and T_PWR begins (R161, R162). -/
def State.initBegun (opcode argument : Byte) (w : BusWidth) (s : State) : State :=
  State.enterDelay .pre .pwr
    { s.latch opcode argument 0#8 with busw := w, phase := .initialising, seqPc := 0#3 }

theorem startInit_taken {o : Byte} (w : BusWidth) (hu : s.ustate = .idle) (hp : s.phase = .poweringUp)
    (ho : o = opInit8 ∨ o = opInit4) (g : Byte) : startInit o g w s = .next (s.initBegun o g w) :=
  request_taken hu (hp ▸ admissible_poweringUp.mpr ho)

/-- Settles O12: both init operations are taken in POWERING_UP, and each begins with its own bus width. -/
theorem initOperationsBeginTheirSequence : Obligations.InitOperationsBeginTheirSequence :=
  fun g _ hu hp => ⟨startInit_taken .eight hu hp (.inl rfl) g, startInit_taken .four hu hp (.inr rfl) g⟩

/-! ### The moves of the init sequencer -/

theorem lt_romLen_of_romAt {c : Params} {e : EntryMode} {w : BusWidth} {n : Nat} {b : Byte}
    (h : romAt c e w n = some b) : n < romLen w := by
  by_contra hn
  simp [romAt_eq_none_iff.mpr (not_lt.mp hn)] at h

/-- When T_PWR is over the first byte of the ROM goes on its way (R163). -/
theorem Move.power_on_over (hm : Move s t) (hu : s.ustate = .pre) (ht : s.tmr ≤ 1) :
    ∃ b, romAt s.cfg s.entry s.busw 0 = some b ∧ t = (delayOver .pwr s).beginSend b false := by
  cases hm with
  | firstByte b _ _ hb => exact ⟨b, hb, rfl⟩
  | delayGoesOn _ _ _ ht' => omega
  | _ => simp_all [isPinState, isDelayState]

/-- When the delay after an init byte is over SEQ_PC goes up by 1: the next byte of the ROM goes on its way, or the ROM is
at its end and the response OK is presented in READY (R163, R164). -/
theorem Move.init_byte_over (hm : Move s t) (hp : s.phase = .initialising) (hu : s.ustate = .post) (ht : s.tmr ≤ 1) :
    (s.seqPc.toNat + 1 < romLen s.busw ∧ ∃ b, romAt s.cfg s.entry s.busw (s.seqPc.toNat + 1) = some b ∧
        t = State.beginSend b false { (delayOver (postDelay s) s).noteSent with seqPc := s.seqPc + 1#3 }) ∨
      (s.seqPc.toNat + 1 = romLen s.busw ∧
        t = State.respond .ok
          { (delayOver (postDelay s) s).noteSent with seqPc := s.seqPc + 1#3, phase := .ready }) := by
  cases hm with
  | nextInitByte b _ _ _ _ hb =>
    exact .inl ⟨lt_romLen_of_romAt hb, b, hb, rfl⟩
  | initDone _ _ _ hl => exact .inr ⟨hl, rfl⟩
  | delayGoesOn _ _ _ ht' => omega
  | _ => simp_all [isPinState, isDelayState]

/-- Settles O56: the moves at the end of a delay say what SEQ_PC becomes and which byte follows, and besides them only the
acceptance of an init operation writes SEQ_PC. -/
theorem sequencePositionAdvancesByOne : Obligations.SequencePositionAdvancesByOne := by
  intro s t hs hr
  obtain ⟨u, hm, rfl⟩ := step_moves hr hs
  refine ⟨fun hp hu ht => ?_, fun hu ht => ?_, fun hpc => ?_⟩
  · have hpc (hl : s.seqPc.toNat < romLen s.busw) := toNat_add_one_of_lt_romLen hl
    rcases hm.init_byte_over hp hu ht with ⟨hl, b, hb, rfl⟩ | ⟨hl, rfl⟩
    · exact ⟨hpc (by omega), .inl ⟨rfl, (congrArg _ (hpc (by omega))).trans hb⟩⟩
    · exact ⟨hpc (by omega), .inr ⟨rfl, (hpc (by omega)).trans hl⟩⟩
  · obtain ⟨b, hb, rfl⟩ := hm.power_on_over hu ht
    exact ⟨rfl, hb⟩
  · cases hm with
    | initAccepted w hu hp hv ho =>
      exact .inr ⟨hp, hu, hv, by cases w; exacts [.inl ho, .inr ho], rfl⟩
    | nextInitByte b hu hp ht => exact .inl ⟨hp, hu, ht⟩
    | initDone hu hp ht => exact .inl ⟨hp, hu, ht⟩
    | _ => exact absurd (by simp) hpc

/-! ### An init operation whose pin operations are all answered ok -/

theorem afterInitByte_last (h : s.seqPc.toNat + 1 = romLen s.busw) :
    afterInitByte s = .next (State.respond .ok { s with seqPc := s.seqPc + 1#3, phase := .ready }) :=
  if_pos h

theorem afterInitByte_next {b : Byte} (h : romAt s.cfg s.entry s.busw (s.seqPc.toNat + 1) = some b) :
    afterInitByte s = .next (State.beginSend b false { s with seqPc := s.seqPc + 1#3 }) := by
  have more := lt_romLen_of_romAt h
  simp only [afterInitByte, if_neg more.ne, h]

/-- After the first init byte the delays are T_SETTLE (R166). -/
theorem postDelay_of_seqPc_ne_zero (h : s.seqPc ≠ 0#3) : postDelay s = .settle := if_neg fun h' => h h'.2

/-- A send is over, its delay included, and the sequencer has not moved on (R138). -/
def State.byteSent (s : State) : State :=
  State.noteSent { s.transmitted with tmr := 0, trace := s.transmitted.trace ++ [.wait (postDelay s)] }

/-- An init byte has been sent, and the init byte `b` is on its way (R163). -/
def State.nextInitByte (b : Byte) (s : State) : State :=
  State.beginSend b false { s.byteSent with seqPc := s.seqPc + 1#3 }

/-- The end of an init operation with an init byte on its way and the bytes `bs` to follow: all of them have been sent, and
the response OK is presented in READY (R164). -/
def State.initFinished : List Byte → State → State
  | [], s => State.respond .ok { s.byteSent with seqPc := s.seqPc + 1#3, phase := .ready }
  | b :: bs, s => (s.nextInitByte b).initFinished bs

/-- An init byte is sent and its delay passes; `afterInitByte` says what follows. -/
theorem runs_initByte (hv : ValidParams s.cfg) (hu : s.ustate = .rs) (hp : s.phase = .initialising)
    (ha : ∀ l : List PortIn, afterInitByte { s.byteSent with inputs := l } = .next { t with inputs := l }) :
    Runs (transmitEvents s.busw s.txb s.txf ++ [.wait (postDelay s)]) s t :=
  (runs_transmit hv hu).trans rfl (runs_post (s := s.transmitted) hv rfl rfl fun l => (if_pos hp).trans (ha l))

/-- The init byte on its way and the bytes that follow it in the ROM are sent, each with its delay. -/
theorem runs_initBytes : ∀ (bs : List Byte) {s : State}, ValidParams s.cfg → s.ustate = .rs → s.phase = .initialising →
    s.seqPc.toNat < romLen s.busw → s.txf = false → (romOf s.cfg s.entry s.busw).drop (s.seqPc.toNat + 1) = bs →
    Runs (transmitEvents s.busw s.txb s.txf ++ [.wait (postDelay s)] ++ bs.flatMap fun b => sendEvents s.busw b false) s
      (s.initFinished bs) := by
  intro bs
  induction bs with
  | nil =>
    intro s hv hu hp hl hf hd
    have last : s.seqPc.toNat + 1 = romLen s.busw := by
      rw [List.drop_eq_nil_iff, romOf_length] at hd
      omega
    rw [List.flatMap_nil, List.append_nil]
    exact runs_initByte hv hu hp fun l => afterInitByte_last last
  | cons b bs ih =>
    intro s hv hu hp hl hf hd
    have next : romAt s.cfg s.entry s.busw (s.seqPc.toNat + 1) = some b := by
      rw [romAt, ← List.head?_drop, hd, List.head?_cons]
    have hpc : (s.nextInitByte b).seqPc.toNat = s.seqPc.toNat + 1 := toNat_add_one_of_lt_romLen hl
    have settle : postDelay (s.nextInitByte b) = .settle := postDelay_of_seqPc_ne_zero fun h => by simp [h] at hpc
    have rest := ih (s := s.nextInitByte b) hv rfl hp (hpc ▸ lt_romLen_of_romAt next) rfl
      (by rw [hpc, ← List.tail_drop]; exact congrArg List.tail hd)
    rw [settle] at rest
    have run : Runs _ s (s.nextInitByte b) := runs_initByte hv hu hp fun l => afterInitByte_next next
    exact run.trans rfl rest

/-- T_PWR is over and the init byte `b`, the first, is on its way (R163). -/
def State.poweredOn (b : Byte) (s : State) : State :=
  State.beginSend b false { s with trace := s.trace ++ [.wait .pwr], tmr := 0 }

/-- From the cycle after its acceptance to its response an init operation makes its events (R161, R162). -/
theorem runs_init {b : Byte} {bs : List Byte} (hv : ValidParams s.cfg) (hu : s.ustate = .pre) (hp : s.phase = .initialising)
    (ht : s.tmr = ticksOf s.cfg .pwr) (hpc : s.seqPc = 0#3) (hrom : romOf s.cfg s.entry s.busw = b :: bs) :
    Runs (initEvents s.cfg s.entry s.busw) s ((s.poweredOn b).initFinished bs) := by
  have first : romAt s.cfg s.entry s.busw 0 = some b := by rw [romAt, hrom]; rfl
  have power : Runs _ s (s.poweredOn b) := runs_pre hv hu ht first
  have bytes := runs_initBytes bs (s := s.poweredOn b) hv rfl hp (by simp [State.poweredOn, hpc, lt_romLen_of_romAt first])
    rfl (by simp [State.poweredOn, hpc, hrom])
  have fset : postDelay (s.poweredOn b) = .fset := if_pos ⟨hp, hpc⟩
  rw [fset] at bytes
  simpa [initEvents, hrom, initByteEvents, State.poweredOn] using power.trans rfl bytes

/-- An init operation presented in POWERING_UP, its pin operations answered ok, runs to its response. -/
theorem after_init {o g b : Byte} {bs : List Byte} {w : BusWidth} {ins rest : List PortIn} (hv : ValidParams s.cfg)
    (hu : s.ustate = .idle) (hp : s.phase = .poweringUp) (hr : s.now.rst = false) (hov : s.now.opValid = true)
    (how : s.now.opWord = wordOf o g) (ho : o = opInit8 ∧ w = .eight ∨ o = opInit4 ∧ w = .four)
    (hrom : romOf s.cfg s.entry w = b :: bs) (hs : serves s.cfg (initEvents s.cfg s.entry w) ins)
    (hi : s.inputs.tail = ins ++ rest) :
    after (1 + ins.length) s = .next { State.initFinished bs ((s.initBegun o g w).poweredOn b) with inputs := rest } := by
  have accepted : step s = .next (s.initBegun o g w).endCycle := by
    rcases ho with ⟨rfl, rfl⟩ | ⟨rfl, rfl⟩
    · rw [step_fetched hr (fetch_of_decode (fetchWord_idle hu hov) (how ▸ decodeRequest_of_row .init8 g))]
      exact congrArg endCycle (startInit_taken .eight hu hp (.inl rfl) g)
    · rw [step_fetched hr (fetch_of_decode (fetchWord_idle hu hov) (how ▸ decodeRequest_of_row .init4 g))]
      exact congrArg endCycle (startInit_taken .four hu hp (.inr rfl) g)
  rw [after_add (after_one accepted)]
  have run : Runs _ (s.initBegun o g w) _ := runs_init hv rfl rfl rfl rfl hrom
  have ends := run ins rest hs
  rw [← hi] at ends
  exact ends

/-- Settles O43: the state the run ends in, computed for the five bytes of ROM8. -/
theorem initEightRunsToReady : Obligations.InitEightRunsToReady := by
  intro s g ins rest hv hu hp hr hov how hs hi
  rw [after_init hv hu hp hr hov how (.inl ⟨rfl, rfl⟩) rfl hs hi]
  simp [State.initFinished, State.nextInitByte, State.byteSent, State.transmitted, State.poweredOn, State.initBegun,
    State.noteSent, sentEntryMode, sentDisplayMode, State.beginSend, State.respond, State.latch, State.enterDelay,
    linesAfter, postDelay]

/-- Settles O44: the state the run ends in, computed for the seven bytes of ROM4; D3 to D0 stay as they were. -/
theorem initFourRunsToReady : Obligations.InitFourRunsToReady := by
  intro s g ins rest hv hu hp hr hov how hs hi
  rw [after_init hv hu hp hr hov how (.inr ⟨rfl, rfl⟩) rfl hs hi]
  simp [State.initFinished, State.nextInitByte, State.byteSent, State.transmitted, State.poweredOn, State.initBegun,
    State.noteSent, sentEntryMode, sentDisplayMode, State.beginSend, State.respond, State.latch, State.enterDelay,
    linesAfter, postDelay, lowNibble_append]

/-! ### No step stops -/

theorem endCycle_eq_refused {o : Result} {r : Refusal} (h : endCycle o = .refused r) : o = .refused r := by
  cases o <;> simp_all

theorem delayCycle_not_refused {k : DelayKind} {f : State → Result} (hf : ∀ u r, f u ≠ .refused r) (r : Refusal) :
    delayCycle k f s ≠ .refused r := by
  by_cases ht : s.tmr ≤ 1
  · rw [delayCycle_ends ht]
    exact hf _ r
  · rw [delayCycle_goes_on (not_le.mp ht)]
    nofun

theorem afterSend_not_refused (s : State) (r : Refusal) : afterSend s ≠ .refused r := by
  unfold afterSend afterInitByte
  split
  · split
    · nofun
    · split <;> nofun
  · split <;> nofun

theorem preCycle_not_refused (s : State) (r : Refusal) : preCycle s ≠ .refused r :=
  delayCycle_not_refused (fun u _ => by split <;> nofun) r

theorem request_not_refused {o a x : Byte} {f : State → State} {r : Refusal} : request o a x f s ≠ .refused r := by
  rcases request_cases o a x f s with ⟨-, -, he⟩ | ⟨-, he⟩ <;> simp [he]

theorem takePayload_not_refused {b : Byte} {r : Refusal} : takePayload b s ≠ .refused r := by
  unfold takePayload
  split <;> nofun

theorem discardPayload_not_refused {b : Byte} {r : Refusal} : discardPayload b s ≠ .refused r := by
  unfold discardPayload
  split <;> nofun

/-- Every cycle has its meaning: no arm of the dispatch and no row of the micro-sequencer refuses. -/
theorem step_not_refused (s : State) (r : Refusal) : step s ≠ .refused r := by
  intro h
  cases hr : s.now.rst with
  | true => simp [step_reset hr] at h
  | false =>
    cases hu : s.ustate with
    | idle =>
      rcases step_idle hr hu with ⟨-, i, hd, hs⟩ | ⟨-, hs⟩
      · obtain ⟨x, f, he, -⟩ := exec_of_encode_request (encode_of_decodeRequest hd) s
        rw [hs, he] at h
        exact request_not_refused (endCycle_eq_refused h)
      · simp [hs] at h
    | pre => exact preCycle_not_refused s r (endCycle_eq_refused (step_pre hr hu ▸ h))
    | hold => exact delayCycle_not_refused (fun _ _ h => by cases h) r (endCycle_eq_refused (step_hold hr hu ▸ h))
    | post => exact delayCycle_not_refused afterSend_not_refused r (endCycle_eq_refused (step_post hr hu ▸ h))
    | payload =>
      rcases step_payload hr hu with ⟨-, hs⟩ | ⟨-, hs⟩ <;> rw [hs] at h
      · exact takePayload_not_refused (endCycle_eq_refused h)
      · cases h
    | drain =>
      rcases step_drain hr hu with ⟨-, hs⟩ | ⟨-, hs⟩ <;> rw [hs] at h
      · exact discardPayload_not_refused (endCycle_eq_refused h)
      · cases h
    | rs => simp [step_rs hr hu] at h
    | data => simp [step_data hr hu] at h
    | enHi => simp [step_enHi hr hu] at h
    | enLo => simp [step_enLo hr hu] at h
    | rsp => simp [step_rsp hr hu] at h

/-- In a state that meets the invariant a cycle stops neither with a fault nor with a refusal (R242). -/
theorem Inv.step_next (h : Inv s) : ∃ t, step s = .next t ∧ Inv t := by
  cases hs : step s with
  | next t => exact ⟨t, rfl, everyStepKeepsTheInvariant s t h hs⟩
  | fault r => exact absurd h (theTwoFaultsNeedUnreachableRegisters s r hs).2
  | refused r => exact absurd hs (step_not_refused s r)

/-! ### A run left to itself -/

/-- What every undisturbed cycle keeps holds along an undisturbed run. -/
theorem after_keeps_undisturbed {P : State → Prop}
    (hP : ∀ s, P s → s.now.rst = false → s.now.rspReady = false → ∃ t, step s = .next t ∧ P t) :
    ∀ (n : Nat) (s : State), P s → undisturbed n s.inputs → ∃ t, after n s = .next t ∧ P t := by
  intro n
  induction n with
  | zero => exact fun s h _ => ⟨s, rfl, h⟩
  | succ n ih =>
    intro s h hd
    obtain ⟨hr, hy⟩ := undisturbed_head hd
    obtain ⟨u, hu, hPu⟩ := hP s h hr hy
    obtain ⟨-, hin⟩ := parametersStayAndInputsMoveOn s u hu
    rw [after_succ hu]
    exact ih u hPu (hin ▸ undisturbed_tail hd)

/-! ### The events still to come of a send in progress -/

/-- The event of a delay with `n` in TMR, as long as the cycle in which TMR holds the delay's ticks is still to come (R258;
log 5). -/
def delayToCome (c : Params) (k : DelayKind) (n : Nat) : List Event := if ticksOf c k ≤ n then [.wait k] else []

/-- The transaction of a nibble, on the 8-bit bus of the byte (R133, R137). -/
def nibbleEvents (w : BusWidth) (nib : Bool) (b : Byte) : List Event :=
  xactEvents (busData w nib b).1 (busData w nib b).2

/-- What follows the transaction of nibble `nib`: that of the lower nibble, if it is still to come, and the delay `k`. -/
def afterNibbleEvents (w : BusWidth) (nib : Bool) (b : Byte) (k : DelayKind) : List Event :=
  (if w = .four ∧ nib = false then nibbleEvents w true b else []) ++ [.wait k]

/-- The events still to come of the send in progress in `s`, once it stands at `u` with `nib` in NIB and `n` in TMR, if no
pin operation fails (R138, R140). -/
def sendToComeAt (s : State) (u : UState) (nib : Bool) (n : Nat) : List Event :=
  let later := afterNibbleEvents s.busw nib s.txb (postDelay s)
  match u with
  | .rs => transmitEvents s.busw s.txb s.txf ++ [.wait (postDelay s)]
  | .data => nibbleEvents s.busw nib s.txb ++ later
  | .enHi => .pin (.en true) .ok :: .wait .hold :: .pin (.en false) .ok :: later
  | .hold => delayToCome s.cfg .hold n ++ .pin (.en false) .ok :: later
  | .enLo => .pin (.en false) .ok :: later
  | .post => delayToCome s.cfg (postDelay s) n
  | .idle | .pre | .payload | .drain | .rsp => []

/-- The events still to come of the send in progress. -/
def sendToCome (s : State) : List Event := sendToComeAt s s.ustate s.nib s.tmr

/-- A cycle in which a delay goes on records the delay's event or leaves it to come. -/
theorem delayNoted_toCome (k : DelayKind) (ht : 1 < s.tmr) :
    (delayNoted k s).trace ++ delayToCome s.cfg k (s.tmr - 1) = s.trace ++ delayToCome s.cfg k s.tmr := by
  rcases lt_trichotomy s.tmr (ticksOf s.cfg k) with h | h | h
  · have h' : ¬ ticksOf s.cfg k ≤ s.tmr - 1 := by omega
    simp [delayNoted, delayToCome, h.ne, h.not_ge, h']
  · have pos : 0 < ticksOf s.cfg k := by omega
    simp [delayNoted, delayToCome, h, pos]
  · have h' : ticksOf s.cfg k ≤ s.tmr - 1 := by omega
    simp [delayNoted, delayToCome, h.ne', h.le, h']

/-- After the last cycle of a delay its event has been recorded. -/
theorem delayOver_toCome (k : DelayKind) (hv : ValidParams s.cfg) (ht : s.tmr ≤ 1) :
    (delayOver k s).trace = s.trace ++ delayToCome s.cfg k s.tmr := by
  have hk := ticksOf_pos hv k
  rw [delayOver_trace]
  by_cases h : s.tmr = ticksOf s.cfg k
  · simp [delayNoted, delayToCome, h]
  · have h' : ¬ ticksOf s.cfg k ≤ s.tmr := by omega
    simp [delayNoted, delayToCome, h, h']

/-- A delay that is not over goes on (R258). -/
theorem Move.delay_goes_on {k : DelayKind} (hm : Move s t) (hu : isDelayState s.ustate = true) (hk : delayOf s = some k)
    (ht : 1 < s.tmr) : t = { delayNoted k s with tmr := s.tmr - 1 } := by
  cases hm with
  | delayGoesOn k' _ hk' =>
    obtain rfl : k = k' := by simpa [hk] using hk'
    rfl
  | firstByte | holdOver | nextInitByte | initDone | nextPayload | sendDone => omega
  | failed op hpin => simp [isDelayState_of_isPinState hpin] at hu
  | _ => simp_all [isDelayState]

/-- A Transmit is its RS operation and the transactions of its nibbles (R135, R136). -/
theorem transmitEvents_nibbles (w : BusWidth) (b : Byte) (f : Bool) (k : DelayKind) :
    transmitEvents w b f ++ [.wait k] = .pin (.rs f) .ok :: (nibbleEvents w false b ++ afterNibbleEvents w false b k) := by
  cases w <;> simp [transmitEvents, nibbleEvents, afterNibbleEvents, busData]

/-- The next event of a send in a state that issues a pin operation is that operation. -/
theorem sendToCome_of_pinOpOf {op : PinOp} (ho : pinOpOf s = some op) : ∃ es, sendToCome s = .pin op .ok :: es := by
  cases hu : s.ustate <;> simp only [pinOpOf, hu, Option.some.injEq, reduceCtorEq] at ho <;> subst ho <;>
    simp only [sendToCome, hu]
  case rs => exact ⟨_, transmitEvents_nibbles ..⟩
  all_goals exact ⟨_, rfl⟩

/-- `t` is a later moment of the send in progress in `s`: nothing but USTATE, NIB, TMR, LINES and the trace has changed, and
the events recorded since were the next ones to come. -/
def SendGoesOn (s t : State) : Prop :=
  ∃ u n m l tr, t = { s with ustate := u, nib := n, tmr := m, lines := l, trace := tr } ∧ isSendState u = true ∧
    tr ++ sendToComeAt s u n m = s.trace ++ sendToCome s

/-- What a move does in a send: it goes on, a pin operation fails, or the delay after the byte is over. -/
theorem Move.send_cases (hm : Move s t) (hs : isSendState s.ustate = true) (hv : ValidParams s.cfg) :
    SendGoesOn s t ∨ (∃ op es, t = s.pinFailure op ∧ sendToCome s = .pin op .ok :: es) ∨
      (s.ustate = .post ∧ s.tmr ≤ 1) := by
  cases hm with
  | stays => exact .inl ⟨_, _, _, _, _, rfl, hs, rfl⟩
  | rsOk hu =>
    exact .inl ⟨_, _, _, _, _, rfl, rfl, by simp [sendToCome, sendToComeAt, hu, transmitEvents_nibbles]⟩
  | dataOk hu =>
    exact .inl ⟨_, _, _, _, _, rfl, rfl, by simp [sendToCome, sendToComeAt, hu, nibbleEvents, xactEvents]⟩
  | enHiOk hu => exact .inl ⟨_, _, _, _, _, rfl, rfl, by simp [sendToCome, sendToComeAt, hu, delayToCome]⟩
  | nibbleOk hu _ _ hb hn =>
    exact .inl ⟨_, _, _, _, _, rfl, rfl, by simp [sendToCome, sendToComeAt, hu, afterNibbleEvents, hb, hn]⟩
  | byteOk hu _ _ hb =>
    have last : ¬(s.busw = .four ∧ s.nib = false) := by rcases hb with h | h <;> simp [h]
    exact .inl ⟨_, _, _, _, _, rfl, rfl, by simp [sendToCome, sendToComeAt, hu, afterNibbleEvents, last, delayToCome]⟩
  | failed op hu ho =>
    obtain ⟨es, he⟩ := sendToCome_of_pinOpOf ho
    exact .inr (.inl ⟨op, es, rfl, he⟩)
  | delayGoesOn k hu hk ht =>
    have noted := delayNoted_toCome k ht
    rw [delayNoted_eq]
    refine .inl ⟨_, _, _, _, _, rfl, hs, ?_⟩
    rcases isDelayState_cases hu with hu | hu | hu
    · simp [hu, isSendState] at hs
    · obtain rfl : k = .hold := by simpa [delayOf, hu] using hk.symm
      simp [sendToCome, sendToComeAt, hu, ← List.append_assoc, noted]
    · obtain rfl : k = postDelay s := by simpa [delayOf, hu] using hk.symm
      simpa [sendToCome, sendToComeAt, hu] using noted
  | holdOver hu ht =>
    have noted := delayOver_toCome .hold hv ht
    rw [delayOver_trace] at noted
    rw [delayOver_eq]
    exact .inl ⟨_, _, _, _, _, rfl, rfl, by simp [sendToCome, sendToComeAt, hu, noted]⟩
  | nextInitByte _ hu _ ht => exact .inr (.inr ⟨hu, ht⟩)
  | initDone hu _ ht => exact .inr (.inr ⟨hu, ht⟩)
  | nextPayload hu _ ht => exact .inr (.inr ⟨hu, ht⟩)
  | sendDone hu _ ht => exact .inr (.inr ⟨hu, ht⟩)
  | _ => simp_all [isSendState]

/-! ### The events still to come of an init operation -/

/-- The events still to come of the init operation in progress, if no pin operation fails (R161 to R163). -/
def initToCome (s : State) : List Event :=
  if s.ustate = .pre then delayToCome s.cfg .pwr s.tmr ++ initByteEvents s.busw (romOf s.cfg s.entry s.busw)
  else sendToCome s ++ ((romOf s.cfg s.entry s.busw).drop (s.seqPc.toNat + 1)).flatMap fun b => sendEvents s.busw b false

theorem initToCome_beginSend {k : DelayKind} (h : postDelay s = k) (b : Byte) (f : Bool) :
    initToCome (s.beginSend b f) = transmitEvents s.busw b f ++ [.wait k] ++
      ((romOf s.cfg s.entry s.busw).drop (s.seqPc.toNat + 1)).flatMap fun b' => sendEvents s.busw b' false :=
  h ▸ rfl

/-- The ROM from a position on: its byte there, and the rest. -/
theorem romOf_drop {c : Params} {e : EntryMode} {w : BusWidth} {n : Nat} {b : Byte} (h : romAt c e w n = some b) :
    (romOf c e w).drop n = b :: (romOf c e w).drop (n + 1) := by
  obtain ⟨hn, rfl⟩ := List.getElem?_eq_some_iff.mp h
  exact List.drop_eq_getElem_cons hn

/-- A move in T_PWR: the delay goes on, or the first byte goes on its way; the events are recorded or still to come. -/
theorem Move.pre_toCome (hm : Move s t) (h : Inv s) (hu : s.ustate = .pre) :
    t.phase = .initialising ∧ t.trace ++ initToCome t = s.trace ++ initToCome s := by
  obtain ⟨hp, hpc⟩ := h.pre hu
  by_cases ht : s.tmr ≤ 1
  · obtain ⟨b, hb, rfl⟩ := hm.power_on_over hu ht
    obtain ⟨bs, rom⟩ : ∃ bs, romOf s.cfg s.entry s.busw = b :: bs := ⟨_, romOf_drop hb⟩
    have noted := delayOver_toCome .pwr h.params ht
    refine ⟨by simpa using hp, ?_⟩
    have fset : postDelay (delayOver .pwr s) = .fset := by simp [postDelay, hp, hpc]
    rw [initToCome_beginSend fset]
    simp [initToCome, hu, hpc, noted, rom, initByteEvents]
  · have noted := delayNoted_toCome .pwr (not_le.mp ht)
    obtain rfl := hm.delay_goes_on (k := .pwr) (by simp [isDelayState, hu]) (by simp [delayOf, hu]) (not_le.mp ht)
    refine ⟨by simpa using hp, ?_⟩
    simp [initToCome, hu, ← List.append_assoc, noted]

/-- A move at the end of the delay after an init byte: the next byte goes on its way, its events and those that follow it
still to come, or all events have been recorded and the response OK is presented in READY. -/
theorem Move.init_byte_toCome (hm : Move s t) (h : Inv s) (hp : s.phase = .initialising) (hu : s.ustate = .post)
    (ht : s.tmr ≤ 1) :
    (t.phase = .initialising ∧ t.trace ++ initToCome t = s.trace ++ initToCome s) ∨
    (t.phase = .ready ∧ t.ustate = .rsp ∧ t.rspc = .ok ∧ t.trace = s.trace ++ initToCome s) := by
  obtain ⟨-, -, hlt⟩ := h.initialising hp
  have hpc := toNat_add_one_of_lt_romLen hlt
  have noted := delayOver_toCome (postDelay s) h.params ht
  rcases hm.init_byte_over hp hu ht with ⟨hl, b, hb, rfl⟩ | ⟨hl, rfl⟩
  · have hne : s.seqPc + 1#3 ≠ 0#3 := fun h0 => by simp [h0] at hpc
    refine .inl ⟨by simpa using hp, ?_⟩
    rw [initToCome_beginSend (k := .settle) (h := postDelay_of_seqPc_ne_zero hne)]
    simp [initToCome, hu, sendToCome, sendToComeAt, noted, romOf_drop hb, hpc, sendEvents]
  · have rom : (romOf s.cfg s.entry s.busw).drop (s.seqPc.toNat + 1) = [] := by simp [romOf_length, hl]
    refine .inr ⟨rfl, rfl, rfl, ?_⟩
    simp [initToCome, hu, sendToCome, sendToComeAt, noted, rom]

/-- What a move does in an init operation: it goes on, and its events are recorded or still to come; or the last of them has
been recorded and the response OK is presented in READY; or a pin operation fails. -/
theorem Move.init_cases (hm : Move s t) (h : Inv s) (hp : s.phase = .initialising) :
    (t.phase = .initialising ∧ t.trace ++ initToCome t = s.trace ++ initToCome s) ∨
    (t.phase = .ready ∧ t.ustate = .rsp ∧ t.rspc = .ok ∧ t.trace = s.trace ++ initToCome s) ∨
    (∃ op es, t = s.pinFailure op ∧ initToCome s = .pin op .ok :: es) := by
  obtain ⟨hu, -⟩ := h.initialising hp
  rcases hu with hu | hu
  · exact .inl (hm.pre_toCome h hu)
  have hpre {u : UState} (hu : isSendState u = true) : u ≠ .pre := (isSendState_iff.mp hu).2.1
  rcases hm.send_cases hu h.params with ⟨u, n, m, l, tr, rfl, hs, plan⟩ | ⟨op, es, rfl, he⟩ | ⟨hu, ht⟩
  · refine .inl ⟨hp, ?_⟩
    rw [initToCome, initToCome, if_neg (hpre hs), if_neg (hpre hu), ← List.append_assoc, ← List.append_assoc, ← plan]
    rfl
  · exact .inr (.inr ⟨op, _, rfl, by rw [initToCome, if_neg (hpre hu), he, List.cons_append]⟩)
  · exact (hm.init_byte_toCome h hp hu ht).imp_right .inl

/-! ### An init operation left to itself -/

/-- Where an init operation stands that found `tr` in the trace and has the events `es` to make. -/
inductive InitStands (tr es : List Event) (s : State) : Prop where
  /-- The events made and those still to come are `es`. -/
  | running : s.phase = .initialising → tr <+: s.trace → s.trace ++ initToCome s = tr ++ es → InitStands tr es s
  /-- All of `es` has been made, and the response OK is presented. -/
  | finished : s.phase = .ready → s.ustate = .rsp → s.rspc = .ok → s.trace = tr ++ es → InitStands tr es s
  /-- The pin operation that follows `done` in `es` has failed, and the response PIN_FAIL is presented (R167). -/
  | failed (done : List Event) (op : PinOp) :
      s.phase = .failed → s.ustate = .rsp → s.rspc = .pinFail → s.flt = true → (done ++ [.pin op .ok]) <+: es →
      s.trace = tr ++ done ++ [.pin op .fail] → InitStands tr es s

theorem Move.trace_extends (hm : Move s t) : s.trace <+: t.trace := by
  rcases hm.trace_grows with h | ⟨e, h⟩ <;> rw [h]
  exact List.prefix_append _ _

/-- Where a pin operation fails in an init operation PHASE goes to FAILED and PIN_FAIL is presented (R167, R243). -/
theorem Inv.initFails (h : Inv s) (hp : s.phase = .initialising) (op : PinOp) :
    (s.pinFailure op).phase = .failed ∧ (s.pinFailure op).ustate = .rsp := by
  have hb : s.bcnt = 0#8 := by
    by_contra hb
    obtain ⟨hr, -⟩ := h.burst hb
    simp [hp] at hr
  exact ⟨if_pos hp, if_neg fun hw => hw.2 hb⟩

/-- A cycle of an init operation that is left to itself: it goes on, ends or fails, and its response waits. -/
theorem InitStands.step {tr es : List Event} (hi : InitStands tr es s) (h : Inv s) (hr : s.now.rst = false)
    (hy : s.now.rspReady = false) (hs : step s = .next t) : InitStands tr es t := by
  have waits (hu : s.ustate = .rsp) : t = s.endCycle := by
    obtain ⟨stays, -⟩ := takingTheResponseEndsTheOperation s hu hr
    exact Host.Outcome.next.inj (hs.symm.trans (stays hy))
  cases hi with
  | running hp hpre plan =>
    obtain ⟨u, hm, rfl⟩ := step_moves hr hs
    rcases hm.init_cases h hp with ⟨hp', plan'⟩ | ⟨hp', hu, hc, ht⟩ | ⟨op, rest, rfl, hrest⟩
    · exact .running hp' (hpre.trans hm.trace_extends) (plan'.trans plan)
    · exact .finished hp' hu hc (ht.trans plan)
    · obtain ⟨hp', hu⟩ := h.initFails hp op
      obtain ⟨done, hdone⟩ := hpre
      rw [← hdone, hrest, List.append_assoc, List.append_cancel_left_eq] at plan
      exact .failed done op hp' hu rfl rfl ⟨rest, by simp [← plan]⟩ (congrArg (· ++ _) hdone.symm)
  | finished hp hu hc ht =>
    rw [waits hu]
    exact .finished hp hu hc ht
  | failed done op hp hu hc hf he ht =>
    rw [waits hu]
    exact .failed done op hp hu hc hf he ht

/-- Settles O49: in every cycle until the response the events made and those to come are the fixed sequence. -/
theorem anInitKeepsItsOrderWhateverTheAnswers : Obligations.AnInitKeepsItsOrderWhateverTheAnswers := by
  intro n s h hu ht hd
  obtain ⟨hp, -⟩ := h.pre hu
  have begins : InitStands s.trace (initEvents s.cfg s.entry s.busw) s :=
    .running hp List.prefix_rfl (by simp [initToCome, hu, ht, delayToCome, initEvents])
  obtain ⟨t, hrun, -, stands⟩ := after_keeps_undisturbed
    (P := fun x => Inv x ∧ InitStands s.trace (initEvents s.cfg s.entry s.busw) x)
    (fun x ⟨hx, stands⟩ hr hy => by
      obtain ⟨y, hs, hy'⟩ := hx.step_next
      exact ⟨y, hs, hy', stands.step hx hr hy hs⟩) n s ⟨h, begins⟩ hd
  refine ⟨t, hrun, ?_⟩
  cases stands with
  | running hp _ plan => exact .inl ⟨⟨_, plan⟩, by simp [hp]⟩
  | finished _ _ hc ht => exact .inl ⟨ht ▸ List.prefix_rfl, fun _ => ⟨hc, ht⟩⟩
  | failed done op hp _ hc hf he ht => exact .inr ⟨done, op, he, ht, hp, hc, hf⟩

end Sys2Proof.Machine
end

section
/-! PROOFS of the statements of 42_commands.md: the acceptance of a fixed command (O13), the byte of SET_CURSOR_POS
(O14), a fixed command whose pin operations are all answered ok (O40), and the order of a send whatever the answers
(O48). -/

namespace Sys2Proof.Machine
variable {s t : State} {i : Instr}

/-! ### The acceptance of a fixed command -/

/-- A request that sends one byte is taken in IDLE in READY, and its send begins (R185, R220). -/
theorem singleSend_taken {o : Byte} (hu : s.ustate = .idle) (hp : s.phase = .ready) (ho : admissible .ready o = true)
    (a x b : Byte) (f : Bool) : singleSend o a x b f s = .next ((s.latch o a x).beginSend b f) :=
  request_taken hu (hp ▸ ho)

/-- Settles O13: each of the five is a request with its own opcode and byte, taken in READY. -/
theorem fixedCommandsLoadTheirByte : Obligations.FixedCommandsLoadTheirByte := by
  intro s hu hp
  exact ⟨fun _ => singleSend_taken hu hp rfl .., fun _ => singleSend_taken hu hp rfl ..,
    fun _ => singleSend_taken hu hp rfl .., fun _ => singleSend_taken hu hp rfl ..,
    fun _ => singleSend_taken hu hp rfl .., fun _ => singleSend_taken hu hp rfl ..,
    fun _ => singleSend_taken hu hp rfl ..⟩

/-! ### The byte of SET_CURSOR_POS -/

/-- The byte of SET_CURSOR_POS is 0x80 and the lower seven bits of the position (R113, R182). -/
theorem toNat_cmdSetCursorPos (p : Byte) : (cmdSetCursorPos p).toNat = 128 + p.toNat % 128 := by
  have low : p.toNat &&& 127 = p.toNat % 128 := Nat.and_two_pow_sub_one_eq_mod p.toNat 7
  have high : 128 * 1 + p.toNat % 128 = 128 * 1 ||| p.toNat % 128 :=
    Nat.two_pow_add_eq_or_of_lt (i := 7) (Nat.mod_lt _ (by decide)) 1
  rw [cmdSetCursorPos, BitVec.toNat_or, BitVec.toNat_and]
  rw [show (127#8).toNat = 127 from rfl, low]
  exact high.symm

/-- Settles O14: the value of the byte shows both halves, since 128 is 0 modulo 128. -/
theorem cursorPositionTopBitIsDropped : Obligations.CursorPositionTopBitIsDropped := by
  intro p
  have value := toNat_cmdSetCursorPos
  refine ⟨BitVec.eq_of_toNat_eq ?_, ?_, ?_⟩
  · rw [value, value, BitVec.toNat_add, BitVec.toNat_ofNat]
    omega
  · rw [value]
    omega
  · rw [value]
    omega

/-! ### A send whose pin operations are all answered ok -/

/-- Outside an initialisation the delay after a send is T_SETTLE (R138, R166). -/
theorem postDelay_of_not_initialising (hp : s.phase ≠ .initialising) : postDelay s = .settle := if_neg fun h => hp h.1

/-- A send that is neither an init byte nor followed by a payload word ends the operation (R140). -/
theorem afterSend_responds (hp : s.phase ≠ .initialising) (ho : s.opc ≠ opWriteBytes) :
    afterSend s = .next (State.respond .ok s.noteSent) :=
  (if_neg hp).trans (if_neg fun h => ho h.1)

/-- The ghosts take a byte only from an init operation or a mutator (R50). -/
theorem noteSent_of_not_mutator (hp : s.phase ≠ .initialising) (he : ¬ isEntryMutator s.opc)
    (hd : ¬ isDisplayMutator s.opc) : s.noteSent = s := by
  simp only [isEntryMutator, isDisplayMutator, not_or] at he hd
  simp [State.noteSent, sentEntryMode, sentDisplayMode, hp, he, hd]

/-- A single send makes the events of the Send and ends with the response OK (R138, R185). -/
theorem runs_send (hv : ValidParams s.cfg) (hu : s.ustate = .rs) (hp : s.phase ≠ .initialising)
    (ho : s.opc ≠ opWriteBytes) :
    Runs (sendEvents s.busw s.txb s.txf) s (State.respond .ok s.byteSent) := by
  have settle : Runs _ s.transmitted (State.respond .ok s.byteSent) :=
    runs_post hv rfl rfl fun l => afterSend_responds hp ho
  have run := (runs_transmit hv hu).trans rfl settle
  rwa [postDelay_of_not_initialising (s := s.transmitted) hp] at run

/-- In IDLE a step executes the well-formed instruction whose word the host presents. -/
theorem step_presented {w : Word} (hr : s.now.rst = false) (hu : s.ustate = .idle) (hov : s.now.opValid = true)
    (how : s.now.opWord = w) (hw : encode i = .request w) (hi : wellFormed i = true) :
    step s = endCycle (exec i s) := by
  have hd := decodeOfEncodeIsTheInstruction i hi
  rw [hw, ← how] at hd
  exact step_fetched hr (fetch_of_decode (fetchWord_idle hu hov) hd)

/-- A request that begins a single send, its pin operations answered ok, runs to the response OK. -/
theorem after_send {u : State} {ins rest : List PortIn} (accepted : step s = .next u.endCycle) (hv : ValidParams u.cfg)
    (hu : u.ustate = .rs) (hp : u.phase ≠ .initialising) (ho : u.opc ≠ opWriteBytes)
    (hs : serves u.cfg (sendEvents u.busw u.txb u.txf) ins) (hi : u.inputs.tail = ins ++ rest) :
    after (1 + ins.length) s = .next { State.respond .ok u.byteSent with inputs := rest } := by
  rw [after_add (after_one accepted)]
  exact (runs_send (s := u.endCycle) hv hu hp ho).of_inputs hi hs

/-- Settles O40: a fixed command begins the send of its byte, which is no mode byte, so the ghosts stay as they are. -/
theorem fixedCommandsRunToOk : Obligations.FixedCommandsRunToOk := by
  intro s i op x b w ins rest hi hw hv hu hp hr hov how hs hin
  obtain ⟨a, hx, hwf, hop⟩ : ∃ a, exec i s = .next ((s.latch op a x).beginSend b false) ∧ wellFormed i = true ∧
      op ∈ [opClear, opHome, opSetCursorPos, opShiftCursor, opShiftDisplay] := by
    rcases hi with ⟨g, rfl, rfl, rfl, rfl⟩ | ⟨g, rfl, rfl, rfl, rfl⟩ | ⟨p, rfl, rfl, rfl, rfl⟩ |
        ⟨g, rfl, rfl, rfl, rfl⟩ | ⟨g, rfl, rfl, rfl, rfl⟩ | ⟨g, rfl, rfl, rfl, rfl⟩ | ⟨g, rfl, rfl, rfl, rfl⟩ <;>
      exact ⟨_, singleSend_taken hu hp rfl .., rfl, by decide⟩
  obtain ⟨he, hd⟩ := not_mutator (o := op) (by simp only [List.mem_cons] at hop ⊢; tauto)
  have hburst : op ≠ opWriteBytes := by rintro rfl; exact absurd hop (by decide)
  have hni : s.phase ≠ .initialising := by simp [hp]
  have accepted : step s = .next ((s.latch op a x).beginSend b false).endCycle := by
    rw [step_presented hr hu hov how hw hwf, hx, endCycle_next]
  have ends := after_send accepted hv rfl hni hburst hs hin
  have ghosts : State.byteSent ((s.latch op a x).beginSend b false) = _ := noteSent_of_not_mutator hni he hd
  rw [ghosts] at ends
  refine ⟨_, ends, rfl, rfl, rfl, ?_, rfl, hp, rfl, rfl, rfl, rfl, rfl, rfl, rfl, rfl⟩
  simp [State.transmitted, sendEvents, postDelay, hni]

/-! ### Every cycle of a send has a next state -/

theorem step_next_of_isSendState (hu : isSendState s.ustate = true) (hp : s.phase ≠ .initialising) :
    ∃ t, step s = .next t := by
  cases hs : step s with
  | next t => exact ⟨t, rfl⟩
  | refused r => exact absurd hs (step_not_refused s r)
  | fault r =>
    rcases fault_of_step hs with ⟨-, hw | hw, -⟩ | ⟨-, hp', -⟩
    · simp [hw, isSendState] at hu
    · simp [hw, isSendState] at hu
    · exact absurd hp' hp

/-! ### The timer of a delay -/

/-- TMR holds no more than the ticks of the delay in progress (R258). -/
def TimerBounded (s : State) : Prop := ∀ k, delayOf s = some k → s.tmr ≤ ticksOf s.cfg k

theorem timerBounded_of_no_delay (h : delayOf s = none) : TimerBounded s := by simp [TimerBounded, h]

/-- A delay starts with its ticks in TMR and counts down, whatever the parameters. -/
theorem Move.timerBounded (hm : Move s t) (h : TimerBounded s) : TimerBounded t := by
  cases hm with
  | stays => exact h
  | delayGoesOn k' =>
    intro k hk
    have same : delayOf { delayNoted k' s with tmr := s.tmr - 1 } = delayOf s := by simp [delayOf, postDelay]
    have bound := h k (same ▸ hk)
    simp only [delayNoted_cfg]
    omega
  | initAccepted | enHiOk | byteOk =>
    rintro k ⟨⟩
    exact le_rfl
  | failed | payloadDiscarded =>
    refine timerBounded_of_no_delay ?_
    simp only [State.pinFailure, State.failRegisters, delayOf]
    split_ifs <;> rfl
  | _ => exact timerBounded_of_no_delay rfl

/-- After the last cycle of a delay that has kept TMR within its ticks its event has been recorded, be it a delay of no
ticks. -/
theorem TimerBounded.delayOver_toCome {k : DelayKind} (h : TimerBounded s) (hk : delayOf s = some k) :
    (delayOver k s).trace = s.trace ++ delayToCome s.cfg k s.tmr := by
  rw [delayOver_trace]
  rcases (h k hk).lt_or_eq with lt | eq
  · simp [delayNoted, delayToCome, lt.ne, lt.not_ge]
  · simp [delayNoted, delayToCome, eq]

/-! ### A single send left to itself -/

/-- The next event of a send in a delay is the delay's own, as long as it is still to come. -/
theorem sendToComeAt_of_delayOf {k : DelayKind} (hs : isSendState s.ustate = true) (hk : delayOf s = some k) :
    ∃ later, ∀ n, sendToComeAt s s.ustate s.nib n = delayToCome s.cfg k n ++ later := by
  cases hu : s.ustate <;>
    simp only [hu, isSendState, delayOf, Option.some.injEq, reduceCtorEq, Bool.false_eq_true] at hs hk
  case hold => exact ⟨_, fun n => by rw [← hk]; rfl⟩
  case post => exact ⟨[], fun n => by rw [← hk, List.append_nil]; rfl⟩

/-- What a move does in a single send: the send goes on, or a pin operation fails, or the last event is recorded and the
response OK is presented. Unlike `Move.send_cases` it holds for parameters that are not admissible too, as O48 asks: a
delay of no ticks is recorded because TMR is bounded by it. -/
theorem Move.singleSend_cases (hm : Move s t) (hs : isSendState s.ustate = true) (hb : TimerBounded s)
    (hp : s.phase ≠ .initialising) (ho : s.opc ≠ opWriteBytes) :
    SendGoesOn s t ∨ (∃ op es, t = s.pinFailure op ∧ sendToCome s = .pin op .ok :: es) ∨
      (t.ustate = .rsp ∧ t.rspc = .ok ∧ t.trace = s.trace ++ sendToCome s) := by
  cases hm with
  | stays => exact .inl ⟨_, _, _, _, _, rfl, hs, rfl⟩
  | rsOk hu | dataOk hu | enHiOk hu =>
    refine .inl ⟨_, _, _, _, _, rfl, rfl, ?_⟩
    simp [sendToCome, sendToComeAt, hu, transmitEvents_nibbles, nibbleEvents, xactEvents, delayToCome]
  | nibbleOk hu _ _ hb hn =>
    refine .inl ⟨_, _, _, _, _, rfl, rfl, ?_⟩
    simp [sendToCome, sendToComeAt, hu, afterNibbleEvents, hb, hn]
  | byteOk hu _ _ hb =>
    have last : ¬(s.busw = .four ∧ s.nib = false) := by rcases hb with h | h <;> simp [h]
    refine .inl ⟨_, _, _, _, _, rfl, rfl, ?_⟩
    simp [sendToCome, sendToComeAt, hu, afterNibbleEvents, last, delayToCome]
  | failed op hu hop =>
    obtain ⟨es, he⟩ := sendToCome_of_pinOpOf hop
    exact .inr (.inl ⟨op, es, rfl, he⟩)
  | delayGoesOn k hu hk ht =>
    have noted := delayNoted_toCome k ht
    rw [delayNoted_eq]
    obtain ⟨later, plan⟩ := sendToComeAt_of_delayOf hs hk
    exact .inl ⟨_, _, _, _, _, rfl, hs, by rw [sendToCome, plan, plan, ← List.append_assoc, noted, List.append_assoc]⟩
  | holdOver hu =>
    have noted := hb.delayOver_toCome (k := .hold) (by simp [delayOf, hu])
    rw [delayOver_trace] at noted
    rw [delayOver_eq]
    exact .inl ⟨_, _, _, _, _, rfl, rfl, by simp [sendToCome, sendToComeAt, hu, noted]⟩
  | sendDone hu =>
    have noted := hb.delayOver_toCome (k := postDelay s) (by simp [delayOf, hu])
    exact .inr (.inr ⟨rfl, rfl, by simpa [sendToCome, sendToComeAt, hu] using noted⟩)
  | _ => simp_all [isSendState]

/-- Where a single send stands that found `tr` in the trace and has the events `es` to make. -/
inductive SendStands (tr es : List Event) (s : State) : Prop where
  /-- The events made and those still to come are `es`. -/
  | running : isSendState s.ustate = true → TimerBounded s → s.phase = .ready → s.opc ≠ opWriteBytes → tr <+: s.trace →
      s.trace ++ sendToCome s = tr ++ es → SendStands tr es s
  /-- All of `es` has been made, and the response OK is presented. -/
  | finished : s.ustate = .rsp → s.rspc = .ok → s.trace = tr ++ es → SendStands tr es s
  /-- The pin operation that follows `done` in `es` has failed, and the response PIN_FAIL is presented (R139, R243). -/
  | failed (done : List Event) (op : PinOp) :
      s.ustate = .rsp → s.rspc = .pinFail → s.flt = true → (done ++ [.pin op .ok]) <+: es →
      s.trace = tr ++ done ++ [.pin op .fail] → SendStands tr es s

/-- A move in a single send: it goes on, ends or fails. -/
theorem SendStands.move {tr es : List Event} (hm : Move s t) (hs : isSendState s.ustate = true) (hb : TimerBounded s)
    (hp : s.phase = .ready) (ho : s.opc ≠ opWriteBytes) (hpre : tr <+: s.trace)
    (plan : s.trace ++ sendToCome s = tr ++ es) : SendStands tr es t := by
  have hpre' := hpre.trans hm.trace_extends
  have hb' := hm.timerBounded hb
  rcases hm.singleSend_cases hs hb (by simp [hp]) ho with
    ⟨u, n, m, l, tr', rfl, hu, plan'⟩ | ⟨op, rest, rfl, hrest⟩ | ⟨hu, hc, ht⟩
  · exact .running hu hb' hp ho hpre' (plan'.trans plan)
  · obtain ⟨done, hdone⟩ := hpre
    rw [← hdone, hrest, List.append_assoc, List.append_cancel_left_eq] at plan
    exact .failed done op (if_neg fun h => ho h.1) rfl rfl ⟨rest, by simp [← plan]⟩ (congrArg (· ++ _) hdone.symm)
  · exact .finished hu hc (ht.trans plan)

/-- Where a send stands says nothing of the inputs to come. -/
theorem SendStands.endCycle {tr es : List Event} (h : SendStands tr es s) : SendStands tr es s.endCycle := by
  cases h with
  | running hu hb hp ho hpre plan => exact .running hu hb hp ho hpre plan
  | finished hu hc ht => exact .finished hu hc ht
  | failed done op hu hc hf he ht => exact .failed done op hu hc hf he ht

/-- A cycle of a single send that is left to itself has a next state: the send goes on, ends or fails, and its response
waits. -/
theorem SendStands.step {tr es : List Event} (h : SendStands tr es s) (hr : s.now.rst = false)
    (hy : s.now.rspReady = false) : ∃ t, step s = .next t ∧ SendStands tr es t := by
  have waits (hu : s.ustate = .rsp) : ∃ t, Machine.step s = .next t ∧ SendStands tr es t :=
    ⟨_, (takingTheResponseEndsTheOperation s hu hr).1 hy, h.endCycle⟩
  cases h with
  | running hu hb hp ho hpre plan =>
    obtain ⟨t, hs⟩ := step_next_of_isSendState hu (by simp [hp])
    obtain ⟨v, hm, rfl⟩ := step_moves hr hs
    exact ⟨_, hs, (SendStands.move hm hu hb hp ho hpre plan).endCycle⟩
  | finished hu => exact waits hu
  | failed _ _ hu => exact waits hu

/-- Settles O48: in every cycle until the response the events made and those to come are the events of the Send. -/
theorem aSendKeepsItsOrderWhateverTheAnswers : Obligations.ASendKeepsItsOrderWhateverTheAnswers := by
  intro n s hu hp ho hd
  have settle := postDelay_of_not_initialising (s := s) (by simp [hp])
  have begins : SendStands s.trace (sendEvents s.busw s.txb s.txf) s :=
    .running (by simp [hu, isSendState]) (timerBounded_of_no_delay (by simp [delayOf, hu])) hp ho List.prefix_rfl
      (by simp [sendToCome, sendToComeAt, hu, settle, sendEvents])
  obtain ⟨t, hrun, stands⟩ := after_keeps_undisturbed (fun _ h => h.step) n s begins hd
  refine ⟨t, hrun, ?_⟩
  cases stands with
  | running hu _ _ _ _ plan =>
    refine .inl ⟨⟨_, plan⟩, fun hrsp => ?_⟩
    simp [hrsp, isSendState] at hu
  | finished _ hc ht => exact .inl ⟨ht ▸ List.prefix_rfl, fun _ => ⟨hc, ht⟩⟩
  | failed done op hu hc hf he ht => exact .inr ⟨done, op, he, ht, hu, hc, hf⟩

end Sys2Proof.Machine
end

section
/-! PROOFS of the statements of 43_mode_commands.md: the acceptance of a configuration command (O15), and one whose pin
operations are all answered ok (O42). -/

namespace Sys2Proof.Machine
variable {s u : State} {i : Instr}

/-! ### The acceptance of a configuration command -/

/-- A mutator of ENTRY has been accepted: ENTRY is `m`, and the send of its byte has begun (R200). -/
def State.entryUpdated (opcode argument operand : Byte) (m : EntryMode) (s : State) : State :=
  State.beginSend (encEntry s.cfg m) false { s.latch opcode argument operand with entry := m }

/-- A mutator of DISPLAY has been accepted: DISPLAY is `m`, and the send of its byte has begun (R200). -/
def State.displayUpdated (opcode argument operand : Byte) (m : DisplayMode) (s : State) : State :=
  State.beginSend (encDisplay s.cfg m) false { s.latch opcode argument operand with display := m }

section
variable (hu : s.ustate = .idle) (hp : s.phase = .ready)
include hu hp

theorem mutateEntry_taken {o : Byte} (ho : admissible .ready o = true) (a x : Byte) (f : EntryMode → EntryMode) :
    mutateEntry o a x f s = .next (s.entryUpdated o a x (f s.entry)) :=
  request_taken hu (hp ▸ ho)

theorem mutateDisplay_taken {o : Byte} (ho : admissible .ready o = true) (a x : Byte) (f : DisplayMode → DisplayMode) :
    mutateDisplay o a x f s = .next (s.displayUpdated o a x (f s.display)) :=
  request_taken hu (hp ▸ ho)

theorem execSetDisplayMode_taken (g : BitVec 5) (d c b : Bool) :
    execSetDisplayMode g d c b s =
      .next (s.displayUpdated opSetDisplayMode (modeArg g d c b) (modeArg 0#5 d c b) ⟨d, c, b⟩) :=
  mutateDisplay_taken hu hp rfl ..

theorem execSetAutoscroll_taken (g : BitVec 7) (e : Bool) :
    execSetAutoscroll g e s =
      .next (s.entryUpdated opSetAutoscroll (flagArg g e) (flagByte e) ⟨e, s.entry.dir⟩) :=
  mutateEntry_taken hu hp rfl ..

theorem execSetCursorVisibility_taken (g : BitVec 7) (v : Bool) :
    execSetCursorVisibility g v s =
      .next (s.displayUpdated opSetCursorVisibility (flagArg g v) (flagByte v)
        ⟨s.display.display, v, s.display.blink⟩) :=
  mutateDisplay_taken hu hp rfl ..

theorem execSetDisplay_taken (g : BitVec 7) (o : Bool) :
    execSetDisplay g o s =
      .next (s.displayUpdated opSetDisplay (flagArg g o) (flagByte o) ⟨o, s.display.cursor, s.display.blink⟩) :=
  mutateDisplay_taken hu hp rfl ..

theorem execSetCursorBlink_taken (g : BitVec 7) (o : Bool) :
    execSetCursorBlink g o s =
      .next (s.displayUpdated opSetCursorBlink (flagArg g o) (flagByte o) ⟨s.display.display, s.display.cursor, o⟩) :=
  mutateDisplay_taken hu hp rfl ..

theorem execSetCursorMode_taken (g : BitVec 7) (dir : CursorDir) :
    execSetCursorMode g dir s =
      .next (s.entryUpdated opSetCursorMode (flagArg g dir.bit) (flagByte dir.bit) ⟨s.entry.autoscroll, dir⟩) :=
  mutateEntry_taken hu hp rfl ..

end

/-- Settles O15: each of the six is a mutator with its own opcode and update, taken in READY. -/
theorem mutatorsUpdateEncodeAndLoad : Obligations.MutatorsUpdateEncodeAndLoad := by
  intro s hu hp
  exact ⟨execSetDisplayMode_taken hu hp, execSetAutoscroll_taken hu hp, execSetCursorVisibility_taken hu hp,
    execSetDisplay_taken hu hp, execSetCursorBlink_taken hu hp, fun g => execSetCursorMode_taken hu hp g .decrement,
    fun g => execSetCursorMode_taken hu hp g .increment⟩

/-! ### A configuration command whose pin operations are all answered ok -/

theorem ne_writeBytes_of_mutator {o : Byte} (h : isEntryMutator o ∨ isDisplayMutator o) : o ≠ opWriteBytes := by
  rintro rfl
  obtain ⟨he, hd⟩ := not_mutator (o := opWriteBytes) (by decide)
  exact h.elim he hd

/-- Of the two ghosts a mutator of ENTRY sets CHIP_ENTRY, to the byte that was sent (R50). -/
theorem noteSent_of_entryMutator (hp : s.phase ≠ .initialising) (ho : isEntryMutator s.opc) :
    s.noteSent = { s with chipEntry := some s.txb } := by
  have hd := not_isDisplayMutator_of_isEntryMutator ho
  simp only [isDisplayMutator, not_or] at hd
  have he : s.opc = opSetAutoscroll ∨ s.opc = opSetCursorMode := ho
  simp [State.noteSent, sentEntryMode, sentDisplayMode, hp, he, hd]

/-- Of the two ghosts a mutator of DISPLAY sets CHIP_DISPLAY, to the byte that was sent (R50). -/
theorem noteSent_of_displayMutator (hp : s.phase ≠ .initialising) (ho : isDisplayMutator s.opc) :
    s.noteSent = { s with chipDisplay := some s.txb } := by
  have he : ¬ isEntryMutator s.opc := fun h => not_isDisplayMutator_of_isEntryMutator h ho
  simp only [isEntryMutator, not_or] at he
  have hd : sentDisplayMode s = true := by
    rcases ho with ho | ho | ho | ho <;> simp [sentDisplayMode, hp, ho]
  simp [State.noteSent, sentEntryMode, hp, he, hd]

/-- Outside an initialisation a send that is over has made the events of the Send (R138). -/
theorem byteSent_of_not_initialising (hp : s.phase ≠ .initialising) :
    s.byteSent = State.noteSent
      { s.transmitted with tmr := 0, trace := s.trace ++ sendEvents s.busw s.txb s.txf } := by
  simp [State.byteSent, State.transmitted, sendEvents, postDelay_of_not_initialising, hp]

theorem byteSent_of_entryMutator (hp : s.phase ≠ .initialising) (ho : isEntryMutator s.opc) :
    s.byteSent = { s.transmitted with
      tmr := 0, trace := s.trace ++ sendEvents s.busw s.txb s.txf, chipEntry := some s.txb } :=
  (byteSent_of_not_initialising hp).trans (noteSent_of_entryMutator hp ho)

theorem byteSent_of_displayMutator (hp : s.phase ≠ .initialising) (ho : isDisplayMutator s.opc) :
    s.byteSent = { s.transmitted with
      tmr := 0, trace := s.trace ++ sendEvents s.busw s.txb s.txf, chipDisplay := some s.txb } :=
  (byteSent_of_not_initialising hp).trans (noteSent_of_displayMutator hp ho)

/-- In IDLE a step takes the well-formed instruction whose word the host presents. -/
theorem step_taken {w : Word} (hr : s.now.rst = false) (hu : s.ustate = .idle) (hov : s.now.opValid = true)
    (how : s.now.opWord = w) (hw : encode i = .request w) (hi : wellFormed i = true) (hx : exec i s = .next u) :
    step s = .next u.endCycle := by
  rw [step_presented hr hu hov how hw hi, hx, endCycle_next]

/-- Settles O42: a mutator begins the send of its whole register, whose byte is the mode byte that the ghost takes. -/
theorem mutatorsSendTheWholeRegister : Obligations.MutatorsSendTheWholeRegister := by
  intro s i op x w ins rest hw hv hu hp hr hov how hin
  have hni : s.phase ≠ .initialising := by simp [hp]
  constructor <;> intro m hi hs
  · obtain ⟨a, hx, hwf, ho⟩ : ∃ a, exec i s = .next (s.entryUpdated op a x m) ∧ wellFormed i = true ∧
        isEntryMutator op := by
      rcases hi with ⟨g, e, rfl, rfl, rfl, rfl⟩ | ⟨g, rfl, rfl, rfl, rfl⟩ | ⟨g, rfl, rfl, rfl, rfl⟩
      · exact ⟨_, execSetAutoscroll_taken hu hp .., rfl, .inl rfl⟩
      · exact ⟨_, execSetCursorMode_taken hu hp .., rfl, .inr rfl⟩
      · exact ⟨_, execSetCursorMode_taken hu hp .., rfl, .inr rfl⟩
    have ends := after_send (step_taken hr hu hov how hw hwf hx) hv rfl hni (ne_writeBytes_of_mutator (.inl ho)) hs hin
    rw [byteSent_of_entryMutator (s := s.entryUpdated op a x m) hni ho] at ends
    exact ⟨_, ends, rfl, rfl, rfl, rfl, List.append_assoc .., rfl, rfl, rfl, rfl, hp, rfl, rfl⟩
  · obtain ⟨a, hx, hwf, ho⟩ : ∃ a, exec i s = .next (s.displayUpdated op a x m) ∧ wellFormed i = true ∧
        isDisplayMutator op := by
      rcases hi with ⟨g, d, c, b, rfl, rfl, rfl, rfl⟩ | ⟨g, v, rfl, rfl, rfl, rfl⟩ | ⟨g, o, rfl, rfl, rfl, rfl⟩ |
          ⟨g, o, rfl, rfl, rfl, rfl⟩
      · exact ⟨_, execSetDisplayMode_taken hu hp .., rfl, .inl rfl⟩
      · exact ⟨_, execSetCursorVisibility_taken hu hp .., rfl, .inr (.inl rfl)⟩
      · exact ⟨_, execSetDisplay_taken hu hp .., rfl, .inr (.inr (.inl rfl))⟩
      · exact ⟨_, execSetCursorBlink_taken hu hp .., rfl, .inr (.inr (.inr rfl))⟩
    have ends := after_send (step_taken hr hu hov how hw hwf hx) hv rfl hni (ne_writeBytes_of_mutator (.inr ho)) hs hin
    rw [byteSent_of_displayMutator (s := s.displayUpdated op a x m) hni ho] at ends
    exact ⟨_, ends, rfl, rfl, rfl, rfl, List.append_assoc .., rfl, rfl, rfl, rfl, hp, rfl, rfl⟩

end Sys2Proof.Machine
end

section
/-! PROOFS of the statements of 44_data_writes.md: the acceptance of a WRITE_BYTE (O16), one whose pin operations are all
answered ok (O41), the draining of a failed burst (O46), a burst whose pin operations are all answered ok (O45), and one
that fails at a byte (O47). -/

namespace Sys2Proof.Machine
variable {s t u : State}

/-! ### A single data write -/

/-- Settles O16: both names are a request of the opcode 0x30, taken in READY. -/
theorem writeByteAndWriteCharLoadTheByte : Obligations.WriteByteAndWriteCharLoadTheByte := by
  intro v s hu hp
  exact ⟨singleSend_taken hu hp rfl .., singleSend_taken hu hp rfl ..⟩

/-- A send that carried no mode byte leaves the ghosts as they are (R50). -/
theorem byteSent_of_not_mutator (hp : s.phase ≠ .initialising) (he : ¬ isEntryMutator s.opc)
    (hd : ¬ isDisplayMutator s.opc) :
    s.byteSent = { s.transmitted with tmr := 0, trace := s.trace ++ sendEvents s.busw s.txb s.txf } :=
  (byteSent_of_not_initialising hp).trans (noteSent_of_not_mutator hp he hd)

/-- Settles O41: the byte's send begins when the request is taken, and nothing but the send follows. -/
theorem writeByteRunsToOk : Obligations.WriteByteRunsToOk := by
  intro s v ins rest hv hu hp hr hov how hs hin
  have hni : s.phase ≠ .initialising := by simp [hp]
  have accepted := step_taken hr hu hov how (i := .writeByte v) rfl rfl (singleSend_taken hu hp rfl ..)
  have ends := after_send accepted hv rfl hni (show opWriteByte ≠ opWriteBytes by decide) hs hin
  obtain ⟨he, hd⟩ := not_mutator (o := opWriteByte) (by decide)
  rw [byteSent_of_not_mutator (s := (s.latch opWriteByte v v).beginSend v true) hni he hd] at ends
  exact ⟨_, ends, rfl, rfl, rfl, List.append_assoc .., rfl, hp, rfl, rfl, rfl, rfl, rfl, rfl⟩

/-! ### The count of payload words to come -/

theorem burstCount_pred (n : Nat) : BitVec.ofNat 8 (n + 1) - 1#8 = BitVec.ofNat 8 n := by
  rw [BitVec.ofNat_add, BitVec.add_sub_cancel]

/-- A count within 0 to 255 is 0 only where no word is to come (R96). -/
theorem burstCount_eq_zero_iff {n : Nat} (h : n ≤ 255) : BitVec.ofNat 8 n = 0#8 ↔ n = 0 := by
  rw [← BitVec.toNat_inj, BitVec.toNat_ofNat, BitVec.toNat_ofNat]
  omega

theorem burstCount_succ_ne_zero {n : Nat} (h : n + 1 ≤ 255) : BitVec.ofNat 8 (n + 1) ≠ 0#8 :=
  mt (burstCount_eq_zero_iff h).mp (Nat.succ_ne_zero n)

/-! ### Discarding the words of a failed burst -/

/-- The words to come of a failed burst are discarded one by one, and the response follows the last of them, or comes at
once where there is none (R140, R224). -/
theorem runs_discards : ∀ (ds : List Byte) {s : State}, ds.length ≤ 255 → s.bcnt = BitVec.ofNat 8 ds.length →
    s.ustate = (if s.bcnt = 0#8 then .rsp else .drain) →
    Runs (ds.map .payDiscarded) s
      { s with ustate := .rsp, bcnt := 0#8, trace := s.trace ++ ds.map .payDiscarded } := by
  intro ds
  induction ds with
  | nil =>
    intro s _ hb hu
    rw [List.length_nil] at hb
    rw [hb, if_pos rfl] at hu
    rw [List.map_nil, List.append_nil, ← hu, ← hb]
    exact runs_nil s
  | cons d ds ih =>
    intro s hl hb hu
    rw [List.length_cons] at hl hb
    have more : s.bcnt ≠ 0#8 := hb ▸ burstCount_succ_ne_zero hl
    have pred : s.bcnt - 1#8 = BitVec.ofNat 8 ds.length := by rw [hb, burstCount_pred]
    have first := runs_discard d (hu.trans (if_neg more)) more
    simpa using first.trans rfl (ih (Nat.le_of_succ_le hl) pred (by simp [BitVec.sub_eq_iff_eq_add]))

/-- Settles O46: DRAIN has words to come, so its first word is discarded, not followed by the response at once. -/
theorem aFailedBurstDrainsItsWords : Obligations.AFailedBurstDrainsItsWords := by
  intro bs s ins rest hne hl hu hc hb hs hi
  have more : s.bcnt ≠ 0#8 := by rwa [hb, Ne, burstCount_eq_zero_iff hl, List.length_eq_zero_iff]
  have drains := (runs_discards bs hl hb (by rw [hu, if_neg more])).of_inputs hi hs
  rwa [hc] at drains

/-! ### The payload words of a burst whose pin operations are all answered ok -/

/-- A payload word has been taken, and its send has begun (R91, R140). -/
def State.payloadTaken (b : Byte) (s : State) : State :=
  State.beginSend b true { s with bcnt := s.bcnt - 1#8, trace := s.trace ++ [.pay b] }

/-- What a burst does between two words: it wants the next one, or presents the response OK if there is none (R140). -/
def State.burstContinues (s : State) : State :=
  { s with
    rspc := if s.bcnt = 0#8 then .ok else s.rspc
    ustate := if s.bcnt = 0#8 then .rsp else .payload }

theorem burstContinues_last (hb : s.bcnt = 0#8) : s.burstContinues = s.respond .ok := by
  simp [State.burstContinues, State.respond, hb]

theorem burstContinues_more (hb : s.bcnt ≠ 0#8) : s.burstContinues = { s with ustate := .payload } := by
  simp [State.burstContinues, hb]

theorem burstContinues_of_payload (hu : s.ustate = .payload) (hb : s.bcnt ≠ 0#8) : s.burstContinues = s := by
  rw [burstContinues_more hb, ← hu]

/-- After the send of a payload word the burst continues (R140). -/
theorem afterSend_burst (hp : s.phase ≠ .initialising) (ho : s.opc = opWriteBytes) :
    afterSend s = .next s.noteSent.burstContinues := by
  rw [afterSend, if_neg hp]
  by_cases hb : s.bcnt = 0#8
  · rw [burstContinues_last (s := s.noteSent) hb, if_neg fun h => h.2 hb]
  · rw [burstContinues_more (s := s.noteSent) hb, if_pos ⟨ho, hb⟩]

/-- A burst with a word to come takes it (R91, R222). -/
theorem runs_payloadTaken (b : Byte) (hb : s.bcnt ≠ 0#8) : Runs [.pay b] s.burstContinues (s.payloadTaken b) := by
  rw [burstContinues_more hb]
  exact runs_pay b rfl hb

/-- A payload word that is wanted is taken and sent, its settle delay passes, and the burst continues (R222). -/
theorem runs_word (b : Byte) (hv : ValidParams s.cfg) (hp : s.phase ≠ .initialising) (ho : s.opc = opWriteBytes)
    (hb : s.bcnt ≠ 0#8) :
    Runs (.pay b :: sendEvents s.busw b true) s.burstContinues (s.payloadTaken b).byteSent.burstContinues := by
  have taken := runs_payloadTaken b hb
  have sent : Runs _ (s.payloadTaken b) _ := runs_transmit hv rfl
  have settle : Runs _ (s.payloadTaken b).transmitted (s.payloadTaken b).byteSent.burstContinues :=
    runs_post hv rfl rfl fun l => afterSend_burst hp ho
  rw [postDelay_of_not_initialising (s := (s.payloadTaken b).transmitted) hp] at settle
  exact taken.trans rfl (sent.trans rfl settle)

/-- `t` is the moment of the burst in which, after `s`, the words `bs` have been taken and sent and `n` are still to come:
USTATE and what a send uses hold what was left there, and nothing else has changed. -/
def WordsSent (bs : List Byte) (n : Nat) (s t : State) : Prop :=
  ∃ u x f nib m l, t = { s with
    ustate := u, txb := x, txf := f, nib := nib, tmr := m, lines := l
    bcnt := BitVec.ofNat 8 n
    trace := s.trace ++ burstEvents s.busw bs }

/-- The words of a burst are sent in their order, and the burst continues with the `n` that are still to come (R222). -/
theorem runs_words (n : Nat) : ∀ (bs : List Byte) {s : State}, ValidParams s.cfg → s.phase = .ready →
    s.opc = opWriteBytes → bs.length + n ≤ 255 → s.bcnt = BitVec.ofNat 8 (bs.length + n) →
    ∃ t, WordsSent bs n s t ∧ Runs (burstEvents s.busw bs) s.burstContinues t.burstContinues := by
  intro bs
  induction bs with
  | nil =>
    intro s _ _ _ _ hb
    rw [List.length_nil, Nat.zero_add] at hb
    exact ⟨s, ⟨_, _, _, _, _, _, by rw [← hb, burstEvents, List.flatMap_nil, List.append_nil]⟩, runs_nil _⟩
  | cons b bs ih =>
    intro s hv hp ho hl hb
    rw [List.length_cons, Nat.add_right_comm] at hl hb
    have hni : s.phase ≠ .initialising := by simp [hp]
    have word := runs_word b hv hni ho (hb ▸ burstCount_succ_ne_zero hl)
    have pred : (s.payloadTaken b).byteSent.bcnt = BitVec.ofNat 8 (bs.length + n) := by
      rw [← burstCount_pred, ← hb]
      rfl
    obtain ⟨t, ⟨u, x, f, nib, m, l, rfl⟩, words⟩ :=
      ih (s := (s.payloadTaken b).byteSent) hv hp ho (Nat.le_of_succ_le hl) pred
    refine ⟨_, ⟨u, x, f, nib, m, l, ?_⟩, word.trans rfl words⟩
    obtain ⟨he, hd⟩ := not_mutator (o := opWriteBytes) (by decide)
    rw [byteSent_of_not_mutator (s := s.payloadTaken b) hni (ho ▸ he) (ho ▸ hd)]
    simp [burstEvents, State.transmitted, State.payloadTaken, State.beginSend]

/-- Settles O45: all words of the burst are sent, none is still to come, so the burst continues with the response. -/
theorem aBurstSendsItsBytesInOrder : Obligations.ABurstSendsItsBytesInOrder := by
  intro bs s ins rest hne hl hv hp ho hu hb hs hi
  have more : s.bcnt ≠ 0#8 := by rwa [hb, Ne, burstCount_eq_zero_iff hl, List.length_eq_zero_iff]
  obtain ⟨t, ⟨_, _, _, _, _, _, rfl⟩, words⟩ := runs_words 0 bs hv hp ho hl hb
  rw [burstContinues_of_payload hu more] at words
  exact ⟨_, words.of_inputs hi hs, rfl, rfl, rfl, rfl, hp, rfl, rfl, rfl, rfl⟩

/-! ### A send up to one of its pin operations -/

/-- If a delay is in progress it has just been entered: TMR holds all of its ticks (R258). -/
def DelayEntered (s : State) : Prop := ∀ k, delayOf s = some k → s.tmr = ticksOf s.cfg k

theorem delayEntered_of_no_delay (h : delayOf s = none) : DelayEntered s := by simp [DelayEntered, h]

/-- The send in progress in `s` gets as far as `t` by the events `es`, and its next event is only just to come: nothing but
USTATE, NIB, TMR, LINES and the trace has changed. -/
structure SendReaches (es : List Event) (s t : State) : Prop where
  frame : ∃ u n m l, t = { s with ustate := u, nib := n, tmr := m, lines := l, trace := s.trace ++ es }
  sending : isSendState t.ustate = true
  entered : DelayEntered t
  plan : es ++ sendToCome t = sendToCome s

theorem SendReaches.refl (hs : isSendState s.ustate = true) (he : DelayEntered s) : SendReaches [] s s :=
  ⟨⟨_, _, _, _, by rw [List.append_nil]⟩, hs, he, rfl⟩

theorem SendReaches.trans {es fs : List Event} (h : SendReaches es s t) (h' : SendReaches fs t u) :
    SendReaches (es ++ fs) s u := by
  obtain ⟨⟨_, _, _, _, rfl⟩, _, _, plan⟩ := h
  obtain ⟨⟨_, _, _, _, rfl⟩, sending, entered, plan'⟩ := h'
  exact ⟨⟨_, _, _, _, by rw [← List.append_assoc]⟩, sending, entered, by rw [List.append_assoc, plan', plan]⟩

theorem SendReaches.cfg_eq {es : List Event} (h : SendReaches es s t) : t.cfg = s.cfg := by
  obtain ⟨_, _, _, _, rfl⟩ := h.frame
  rfl

/-- Before the delay that ends it a send makes its next event and waits for the one after (R140). -/
theorem runs_sendEvent (hv : ValidParams s.cfg) (hs : isSendState s.ustate = true) (he : DelayEntered s)
    (hu : s.ustate ≠ .post) : ∃ e t, SendReaches [e] s t ∧ Runs [e] s t := by
  cases hus : s.ustate with
  | idle | pre | payload | drain | rsp => simp [hus, isSendState] at hs
  | post => exact absurd hus hu
  | rs =>
    refine ⟨_, _, ⟨⟨_, _, _, _, rfl⟩, rfl, delayEntered_of_no_delay rfl, ?_⟩, runs_rs hus⟩
    simp [sendToCome, sendToComeAt, hus, transmitEvents_nibbles, postDelay]
  | data =>
    refine ⟨_, _, ⟨⟨_, _, _, _, rfl⟩, rfl, delayEntered_of_no_delay rfl, ?_⟩, runs_data hus⟩
    simp [sendToCome, sendToComeAt, hus, nibbleEvents, xactEvents, postDelay]
  | enHi =>
    refine ⟨_, _, ⟨⟨_, _, _, _, rfl⟩, rfl, ?_, ?_⟩, runs_enHi hus⟩
    · rintro k ⟨⟩
      rfl
    · simp [sendToCome, sendToComeAt, hus, delayToCome, postDelay]
  | hold =>
    have full := he .hold (by simp [delayOf, hus])
    refine ⟨_, _, ⟨⟨_, _, _, _, rfl⟩, rfl, delayEntered_of_no_delay rfl, ?_⟩, runs_hold hv hus full⟩
    simp [sendToCome, sendToComeAt, hus, delayToCome, full, postDelay]
  | enLo =>
    by_cases hb : s.busw = .four ∧ s.nib = false
    · refine ⟨_, _, ⟨⟨_, _, _, _, rfl⟩, rfl, delayEntered_of_no_delay rfl, ?_⟩, runs_enLo_nibble hus hb.1 hb.2⟩
      simp [sendToCome, sendToComeAt, hus, afterNibbleEvents, hb, postDelay]
    · have last : s.busw = .eight ∨ s.nib = true := by
        cases hw : s.busw with
        | eight => exact .inl rfl
        | four => exact .inr (by simpa [hw] using hb)
      refine ⟨_, _, ⟨⟨_, _, _, _, rfl⟩, rfl, ?_, ?_⟩, runs_enLo_byte hus last⟩
      · rintro k ⟨⟩
        rfl
      · simp [sendToCome, sendToComeAt, hus, afterNibbleEvents, hb, delayToCome, postDelay]

/-- A send makes any first part of its events that does not hold the delay at its end. -/
theorem runs_sendPrefix : ∀ (done : List Event) {e : Event} {es : List Event} {s : State}, ValidParams s.cfg →
    isSendState s.ustate = true → DelayEntered s → sendToCome s = done ++ e :: es →
    ∃ t, SendReaches done s t ∧ Runs done s t := by
  intro done
  induction done with
  | nil => intro e es s _ hs he _; exact ⟨s, .refl hs he, runs_nil s⟩
  | cons d done ih =>
    intro e es s hv hs he plan
    have notLast : s.ustate ≠ .post := by
      intro hu
      have short := congrArg List.length plan
      have full := he (postDelay s) (by simp [delayOf, hu])
      simp [sendToCome, sendToComeAt, hu, delayToCome, full] at short
    obtain ⟨d', t, first, run⟩ := runs_sendEvent hv hs he notLast
    obtain ⟨rfl, plan'⟩ := List.cons.inj (first.plan.trans plan)
    obtain ⟨u, later, run'⟩ := ih (first.cfg_eq ▸ hv) first.sending first.entered plan'
    exact ⟨u, first.trans later, run.trans first.cfg_eq run'⟩

/-- Where the next event of a send is a pin operation, the block issues it. -/
theorem pinOpOf_of_sendToCome {op : PinOp} {es : List Event} (hs : isSendState s.ustate = true) (he : DelayEntered s)
    (h : sendToCome s = .pin op .ok :: es) : pinOpOf s = some op := by
  cases hd : delayOf s with
  | some k =>
    obtain ⟨later, plan⟩ := sendToComeAt_of_delayOf hs hd
    rw [sendToCome, plan, delayToCome, if_pos (he k hd).ge] at h
    simp at h
  | none =>
    obtain ⟨op', ho⟩ : ∃ op', pinOpOf s = some op' := by
      cases hu : s.ustate <;> simp_all [isSendState, delayOf, pinOpOf]
    obtain ⟨es', plan⟩ := sendToCome_of_pinOpOf ho
    obtain ⟨rfl, -⟩ : op' = op ∧ es' = es := by simpa [h] using plan.symm
    exact ho

/-- A Transmit whose pin operation `op` fails after the events `done` makes them and takes the exception (R139, R243). -/
theorem runs_transmit_fails {done : List Event} {op : PinOp} (hv : ValidParams s.cfg) (hu : s.ustate = .rs)
    (hd : (done ++ [.pin op .ok]) <+: transmitEvents s.busw s.txb s.txf) :
    ∃ t, SendReaches done s t ∧ Runs (done ++ [.pin op .fail]) s (t.pinFailure op) := by
  obtain ⟨later, hd⟩ := hd
  have plan : sendToCome s = done ++ .pin op .ok :: (later ++ [.wait (postDelay s)]) := by
    simp [sendToCome, sendToComeAt, hu, ← hd]
  have noDelay : delayOf s = none := by simp [delayOf, hu]
  obtain ⟨t, reaches, run⟩ := runs_sendPrefix done hv (by rw [hu]; rfl) (delayEntered_of_no_delay noDelay) plan
  have next := List.append_cancel_left (reaches.plan.trans plan)
  have issues := pinOpOf_of_sendToCome reaches.sending reaches.entered next
  have fails := runs_fail ((pinOpOf_isSome t).symm.trans (by rw [issues]; rfl)) issues
  exact ⟨t, reaches, run.trans reaches.cfg_eq fails⟩

/-! ### A burst that fails at a byte -/

/-- A burst that fails is the complete sends and then the burst of the words left, which fails at its first byte. -/
theorem failedBurstEvents_append (w : BusWidth) (bs ds : List Byte) (b : Byte) (done : List Event) (op : PinOp) :
    failedBurstEvents w bs b done op ds = burstEvents w bs ++ failedBurstEvents w [] b done op ds :=
  List.append_assoc ..

/-- In a burst a failure sets BFAIL where payload words are to be discarded (R224; log 7). -/
theorem pinFailure_bfail_burst {ds : List Byte} (op : PinOp) (ho : s.opc = opWriteBytes) (hl : ds.length ≤ 255)
    (hb : s.bcnt = BitVec.ofNat 8 ds.length) : (s.pinFailure op).bfail = (s.bfail || !ds.isEmpty) := by
  have toCome : s.bcnt = 0#8 ↔ ds = [] := by rw [hb, burstCount_eq_zero_iff hl, List.length_eq_zero_iff]
  cases ds <;> simp [ho, toCome]

/-- A wanted payload word `b` is taken, its Transmit gets as far as `t` and fails there, and the words `ds` to come are
discarded (R224, R225). -/
theorem runs_wordFails {ds : List Byte} {b : Byte} {done : List Event} {op : PinOp} (hv : ValidParams s.cfg)
    (ho : s.opc = opWriteBytes) (hl : ds.length + 1 ≤ 255) (hb : s.bcnt = BitVec.ofNat 8 (ds.length + 1))
    (hd : (done ++ [.pin op .ok]) <+: transmitEvents s.busw b true) :
    ∃ t, SendReaches done (s.payloadTaken b) t ∧ (t.pinFailure op).bfail = (s.bfail || !ds.isEmpty) ∧
      Runs (failedBurstEvents s.busw [] b done op ds) s.burstContinues
        { t.pinFailure op with
          ustate := .rsp, bcnt := 0#8, trace := (t.pinFailure op).trace ++ ds.map .payDiscarded } := by
  have taken := runs_payloadTaken b (hb ▸ burstCount_succ_ne_zero hl)
  obtain ⟨t, reaches, fails⟩ := runs_transmit_fails (s := s.payloadTaken b) hv rfl hd
  obtain ⟨hopc, hbfail, count⟩ : t.opc = s.opc ∧ t.bfail = s.bfail ∧ t.bcnt = s.bcnt - 1#8 := by
    obtain ⟨_, _, _, _, rfl⟩ := reaches.frame
    exact ⟨rfl, rfl, rfl⟩
  rw [ho] at hopc
  rw [hb, burstCount_pred] at count
  have discards := runs_discards ds (s := t.pinFailure op) (Nat.le_of_succ_le hl) count
    (by by_cases h : t.bcnt = 0#8 <;> simp [h, hopc])
  have run := taken.trans rfl (fails.trans reaches.cfg_eq discards)
  exact ⟨t, reaches, hbfail ▸ pinFailure_bfail_burst op hopc (Nat.le_of_succ_le hl) count,
    by simpa [failedBurstEvents, burstEvents] using run⟩

/-- Settles O47: the words before are sent, and of the burst that is left the first word fails. -/
theorem aBurstThatFailsSendsAPrefixAndDiscardsTheRest : Obligations.ABurstThatFailsSendsAPrefixAndDiscardsTheRest := by
  intro bs ds b done op s ins rest hl hv hp ho hu hb hd hs hi
  rw [Nat.add_assoc, Nat.add_comm 1] at hl hb
  have more : s.bcnt ≠ 0#8 := hb ▸ burstCount_succ_ne_zero hl
  obtain ⟨t, ⟨_, _, _, _, _, _, ht⟩, words⟩ := runs_words (ds.length + 1) bs hv hp ho hl hb
  have hni : s.phase ≠ .initialising := by simp [hp]
  have hw : t.busw = s.busw := by rw [ht]
  obtain ⟨v, reaches, bfail, fails⟩ :=
    runs_wordFails (s := t) (ht ▸ hv) (ht ▸ ho) (le_of_add_le_right hl) (ht ▸ rfl) (hw ▸ hd)
  obtain ⟨_, _, _, _, rfl⟩ := reaches.frame
  subst ht
  rw [burstContinues_of_payload hu more] at words
  rw [failedBurstEvents_append] at hs ⊢
  refine ⟨_, (words.trans rfl fails).of_inputs hi hs, rfl, rfl, rfl, bfail, rfl, ?_, (if_neg hni).trans hp,
    rfl, rfl, rfl⟩
  simp [failedBurstEvents, burstEvents, State.payloadTaken, State.beginSend]

end Sys2Proof.Machine
end

section
/-! PROOFS of the statements of 60_exceptions.md: no stop under the invariant (O5), the exception PinFailure (O29), FAILED
until reset (O32), and delays and their ticks (O36, O37). -/

namespace Sys2Proof.Machine
variable {s t : State}

/-! ### No stop -/

/-- Settles O5: a fault needs registers the invariant rules out, and no cycle is refused. -/
theorem noStepStopsUnderTheInvariant : Obligations.NoStepStopsUnderTheInvariant :=
  fun _ h => h.step_next.imp fun _ => And.left

/-! ### The exception PinFailure -/

/-- Settles O29: the cycle takes the exception for the pin operation issued, and `Fail()` writes the registers. -/
theorem pinFailureSetsTheRegisters : Obligations.PinFailureSetsTheRegisters := by
  intro s hu hr ha he
  obtain ⟨op, ho⟩ := Option.isSome_iff_exists.mp ((pinOpOf_isSome s).trans hu)
  exact ⟨_, step_pin_fails hr ho ha he, rfl, op, ho, rfl⟩

/-! ### FAILED until reset -/

/-- Of the next n + 1 cycles without reset, the first and the others. -/
theorem noReset_succ {n : Nat} (h : ∀ c ∈ s.inputs.take (n + 1), c.rst = false) :
    s.now.rst = false ∧ ∀ c ∈ s.inputs.tail.take n, c.rst = false := by
  refine ⟨by simpa [State.now] using rst_of_drop h n.succ_pos, fun c hc => h c ?_⟩
  rw [← List.drop_one, List.take_drop] at hc
  exact List.mem_of_mem_drop (Nat.add_comm 1 n ▸ hc)

/-- A cycle of FAILED waits or ends with the response taken (R93, R97, R244). -/
theorem step_failed (hp : s.phase = .failed) (hu : s.ustate = .idle ∨ s.ustate = .rsp) (hr : s.now.rst = false) :
    step s = .next s.endCycle ∨ step s = .next s.takeResponse.endCycle := by
  rcases hu with hu | hu
  · exact .inl (step_request_not_taken hu hr (by simp [hp]))
  · obtain ⟨waits, taken⟩ := takingTheResponseEndsTheOperation s hu hr
    cases hy : s.now.rspReady with
    | false => exact .inl (waits hy)
    | true => exact .inr (taken hy)

/-- Settles O32, by induction on the cycles: each of them leaves FAILED in IDLE or RSP, and LINES, OPC and FLT alone. -/
theorem failedStaysFailedUntilReset : Obligations.FailedStaysFailedUntilReset := by
  intro n
  induction n with
  | zero => exact fun s hp hu _ => ⟨s, rfl, hp, hu, rfl, rfl, rfl⟩
  | succ n ih =>
    intro s hp hu hin
    obtain ⟨hr, hrest⟩ := noReset_succ hin
    rcases step_failed hp hu hr with hs | hs <;> rw [after_succ hs]
    · exact ih s.endCycle hp hu hrest
    · exact ih s.takeResponse.endCycle hp (.inl rfl) hrest

/-! ### Delays -/

theorem isDelayState_of_delayOf {k : DelayKind} (hk : delayOf s = some k) : isDelayState s.ustate = true := by
  cases hu : s.ustate <;> simp [delayOf, hu] at hk <;> rfl

/-- A cycle of a delay before the last counts TMR down and changes nothing else but the trace, where it records the delay's
event or leaves it to come (R258). -/
theorem Move.delay_counts {k : DelayKind} (hm : Move s t) (hk : delayOf s = some k) (ht : 1 < s.tmr) :
    ∃ tr, t = { s with tmr := s.tmr - 1, trace := tr } ∧
      tr ++ delayToCome s.cfg k (s.tmr - 1) = s.trace ++ delayToCome s.cfg k s.tmr :=
  ⟨_, by rw [hm.delay_goes_on (isDelayState_of_delayOf hk) hk ht, delayNoted_eq], delayNoted_toCome k ht⟩

/-- The last cycle of a delay leaves its state with TMR = 0, drives no line and has the event recorded (R258). -/
theorem Move.delay_over {k : DelayKind} (hm : Move s t) (hk : delayOf s = some k) (ht : s.tmr ≤ 1) :
    t.ustate ≠ s.ustate ∧ t.tmr = 0 ∧ t.lines = s.lines ∧ t.trace = (delayOver k s).trace := by
  have delaying := isDelayState_of_delayOf hk
  cases hm with
  | firstByte b hu | holdOver hu | nextInitByte b hu | initDone hu | nextPayload hu | sendDone hu =>
    simp only [delayOf, hu, Option.some.injEq] at hk
    subst hk
    exact ⟨by simp [hu], rfl, by simp, rfl⟩
  | delayGoesOn _ _ _ ht' => omega
  | stays _ hu => simp [delaying] at hu
  | failed op hu => simp [isDelayState_of_isPinState hu] at delaying
  | _ => simp_all [delayOf]

/-- The delay in progress in `s` lasts `n` more cycles, in which it counts TMR down by one a cycle, drives no line and
records the events `es`, and is left with TMR = 0 (R258). -/
def DelayLasts (n : Nat) (es : List Event) (s : State) : Prop :=
  (∀ m, m < n → ∃ t, after m s = .next t ∧ t.ustate = s.ustate ∧ t.tmr = n - m ∧ t.lines = s.lines) ∧
    ∃ t, after n s = .next t ∧ t.ustate ≠ s.ustate ∧ t.tmr = 0 ∧ t.lines = s.lines ∧ t.trace = s.trace ++ es

/-- A delay lasts as many cycles as TMR says, and records its event if its ticks are still to come (R258, R301; log 5). -/
theorem delayLasts_of_tmr {k : DelayKind} : ∀ (n : Nat) {s : State}, Inv s → delayOf s = some k → s.tmr = n + 1 →
    (∀ c ∈ s.inputs.take (n + 1), c.rst = false) → DelayLasts (n + 1) (delayToCome s.cfg k s.tmr) s := by
  intro n
  induction n with
  | zero =>
    intro s h hk ht hin
    obtain ⟨t, hs, -⟩ := h.step_next
    obtain ⟨u, hm, rfl⟩ := step_moves (noReset_succ hin).1 hs
    obtain ⟨hu, htmr, hl, htr⟩ := hm.delay_over hk ht.le
    refine ⟨fun m hlt => ?_, _, after_one hs, hu, htmr, hl, htr.trans (delayOver_toCome k h.params ht.le)⟩
    obtain rfl : m = 0 := by omega
    exact ⟨s, rfl, rfl, ht, rfl⟩
  | succ n ih =>
    intro s h hk ht hin
    obtain ⟨hr, hrest⟩ := noReset_succ hin
    obtain ⟨t, hs, ht'⟩ := h.step_next
    obtain ⟨u, hm, rfl⟩ := step_moves hr hs
    obtain ⟨tr, rfl, noted⟩ := hm.delay_counts hk (by omega)
    obtain ⟨counts, t, hrun, hu, htmr, hl, htr⟩ := ih ht' hk (congrArg (· - 1) ht) hrest
    refine ⟨fun m hlt => ?_, t, (after_succ hs _).trans hrun, hu, htmr, hl, htr.trans noted⟩
    cases m with
    | zero => exact ⟨s, rfl, rfl, ht, rfl⟩
    | succ m =>
      obtain ⟨v, hv, hvu, hvt, hvl⟩ := counts m (by omega)
      exact ⟨v, (after_succ hs m).trans hv, hvu, by omega, hvl⟩

/-- Settles O36: the delay of each delay state, begun with its ticks in TMR, lasts as long as TMR says. -/
theorem aDelayLastsItsTicks : Obligations.ADelayLastsItsTicks := by
  intro s k h hu ht hin
  have hk : delayOf s = some k := by rcases hu with ⟨hu, rfl⟩ | ⟨hu, rfl⟩ | ⟨hu, rfl⟩ <;> simp [delayOf, hu]
  obtain ⟨n, hn⟩ := Nat.exists_eq_add_of_le' (ticksOf_pos h.params k)
  have lasts := delayLasts_of_tmr n h hk (ht.trans hn) (hn ▸ hin)
  rwa [delayToCome, if_pos ht.ge, ← hn] at lasts

/-! ### Ticks -/

/-- Settles O37, by the two units of a duration and the defaults of R10. -/
theorem tickCountsOfDurations : Obligations.TickCountsOfDurations :=
  ⟨fun _ _ => ⟨rfl, rfl⟩, rfl, rfl, rfl, rfl⟩

end Sys2Proof.Machine
end

section
/-! PROOFS of the statements of 70_reset_and_hazards.md: reset (O2), the word presented while an operation is in flight
(O23), and the cycles of operations whose pin operations are answered at once (O39). -/

namespace Sys2Proof.Machine
variable {s : State}

/-! ### Reset -/

/-- Settles O2: the cycle is the reset, whose registers are those of R55. -/
theorem resetBeatsEverything : Obligations.ResetBeatsEverything := fun _ hr => step_reset hr

/-! ### Cycles that do not read the inputs -/

/-- The state with other inputs to come. -/
def State.withInputs (l : List PortIn) (s : State) : State := { s with inputs := l }

@[simp] theorem now_withInputs_cons (s : State) (c : PortIn) (rest : List PortIn) :
    (s.withInputs (c :: rest)).now = c := rfl

/-- An outcome whose state has other inputs to come. -/
def withInputs (l : List PortIn) : Result → Result
  | .next t => .next (t.withInputs l)
  | .fault r => .fault r
  | .refused r => .refused r

/-- `f` does not read the inputs and hands them on. -/
def IgnoresInputs (f : State → Result) : Prop := ∀ (s : State) (l : List PortIn), f (s.withInputs l) = withInputs l (f s)

/-- A choice, by something other than the inputs, between two functions that do not read them. -/
theorem ignoresInputs_ite {p : State → Prop} [DecidablePred p] {f g : State → Result}
    (hp : ∀ (s : State) (l : List PortIn), p (s.withInputs l) ↔ p s) (hf : IgnoresInputs f) (hg : IgnoresInputs g) :
    IgnoresInputs fun s => if p s then f s else g s := by
  intro s l
  by_cases h : p s
  · simp only [if_pos h, if_pos ((hp s l).mpr h), hf s l]
  · simp only [if_neg h, if_neg (mt (hp s l).mp h), hg s l]

theorem ite_withInputs {p : Prop} [Decidable p] {x y x' y' : State} (l : List PortIn) (hx : x' = x.withInputs l)
    (hy : y' = y.withInputs l) : (if p then x' else y') = (if p then x else y).withInputs l := by
  rw [hx, hy, apply_ite (State.withInputs l)]

theorem delayNoted_withInputs (k : DelayKind) (s : State) (l : List PortIn) :
    delayNoted k (s.withInputs l) = (delayNoted k s).withInputs l := by
  unfold delayNoted
  exact ite_withInputs l rfl rfl

theorem delayCycle_ignoresInputs {k : DelayKind} {f : State → Result} (hf : IgnoresInputs f) :
    IgnoresInputs (delayCycle k f) := by
  intro s l
  rcases le_or_gt s.tmr 1 with ht | ht
  · rw [delayCycle_ends ht, delayCycle_ends (s := s.withInputs l) ht, delayNoted_withInputs]
    exact hf { delayNoted k s with tmr := 0 } l
  · rw [delayCycle_goes_on ht, delayCycle_goes_on (s := s.withInputs l) ht, delayNoted_withInputs]
    rfl

theorem preCycle_ignoresInputs : IgnoresInputs preCycle := by
  refine delayCycle_ignoresInputs fun s l => ?_
  cases hb : romAt s.cfg s.entry s.busw 0 <;> simp only [State.withInputs, hb] <;> rfl

theorem holdCycle_ignoresInputs : IgnoresInputs holdCycle := delayCycle_ignoresInputs fun _ _ => rfl

theorem afterInitByte_ignoresInputs : IgnoresInputs afterInitByte := by
  refine ignoresInputs_ite (fun _ _ => .rfl) (fun _ _ => rfl) fun s l => ?_
  cases hb : romAt s.cfg s.entry s.busw (s.seqPc.toNat + 1) <;> simp only [State.withInputs, hb] <;> rfl

theorem afterSend_ignoresInputs : IgnoresInputs afterSend :=
  ignoresInputs_ite (fun _ _ => .rfl) (fun s => afterInitByte_ignoresInputs s.noteSent)
    (ignoresInputs_ite (fun _ _ => .rfl) (fun _ _ => rfl) fun _ _ => rfl)

theorem postCycle_ignoresInputs : IgnoresInputs postCycle :=
  fun s => delayCycle_ignoresInputs (k := postDelay s) afterSend_ignoresInputs s

/-! ### Cycles that read no word -/

/-- Of the inputs of the cycle `f` reads no more than the answers: that of the pin capability and that of the host to a
response. -/
def ReadsAnswersOnly (f : State → Result) : Prop :=
  ∀ (s : State) (c c' : PortIn) (rest : List PortIn),
    c.pinAck = c'.pinAck → c.pinErr = c'.pinErr → c.rspReady = c'.rspReady →
      f (s.withInputs (c :: rest)) = f (s.withInputs (c' :: rest))

/-- A cycle that does not read the inputs leaves those of the cycles after it, and nothing of its own. -/
theorem IgnoresInputs.readsAnswersOnly {f : State → Result} (hf : IgnoresInputs f) :
    ReadsAnswersOnly fun s => endCycle (f s) := by
  intro s c c' rest _ _ _
  simp only [hf s]
  cases f s <;> rfl

/-- A cycle of a pin operation reads the answer of the pin capability (R144). -/
theorem pinCycle_readsAnswersOnly (op : PinOp) {f : State → State}
    (hf : ∀ s l, f (State.withInputs l s) = (f s).withInputs l) :
    ReadsAnswersOnly fun s => endCycle (.next (pinCycle op f s)) := by
  intro s c c' rest ha he _
  have ok (l : List PortIn) : f ((s.withInputs l).pinOk op) = (f (s.pinOk op)).withInputs l := hf (s.pinOk op) l
  rcases pinCycle_cases op f (s.withInputs (c' :: rest)) with ⟨ha', h⟩ | ⟨ha', he', h⟩ | ⟨ha', he', h⟩
  · simp only [h, pinCycle_waits (s := s.withInputs (c :: rest)) (ha.trans ha')]
    rfl
  · simp only [h, pinCycle_ok (s := s.withInputs (c :: rest)) (ha.trans ha') (he.trans he'), ok]
    rfl
  · simp only [h, pinCycle_fails (s := s.withInputs (c :: rest)) (ha.trans ha') (he.trans he')]
    rfl

theorem afterPulse_withInputs (s : State) (l : List PortIn) :
    afterPulse (s.withInputs l) = (afterPulse s).withInputs l := by
  unfold afterPulse
  exact ite_withInputs l rfl rfl

/-- A cycle of RSP reads whether the host takes the response (R97). -/
theorem rspCycle_readsAnswersOnly : ReadsAnswersOnly fun s => endCycle (.next (rspCycle s)) := by
  intro s c c' rest _ _ hy
  cases h : c'.rspReady <;> simp only [rspCycle, now_withInputs_cons, hy.trans h, h] <;> rfl

/-- Where no word is wanted, a cycle without reset is the micro-sequencer's (R140). -/
theorem step_sequence_of_no_word_wanted (hr : s.now.rst = false) (hi : s.ustate ≠ .idle) (hp : s.ustate ≠ .payload)
    (hd : s.ustate ≠ .drain) : step s = endCycle (sequence s) := by
  by_cases hu : s.ustate = .rs
  · rw [step_rs hr hu]; simp [sequence, hu]
  · refine step_of_no_word hr ?_
    cases h : s.ustate <;> simp_all [fetchWord]

/-- Where no word is wanted, the micro-sequencer reads answers only (R140). -/
theorem sequence_answers {c c' : PortIn} {rest : List PortIn} (hi : s.ustate ≠ .idle) (hp : s.ustate ≠ .payload)
    (hd : s.ustate ≠ .drain) (ha : c.pinAck = c'.pinAck) (he : c.pinErr = c'.pinErr) (hy : c.rspReady = c'.rspReady) :
    endCycle (sequence (s.withInputs (c :: rest))) = endCycle (sequence (s.withInputs (c' :: rest))) := by
  have same {f : State → Result} (hf : ReadsAnswersOnly f) : f _ = f _ := hf s c c' rest ha he hy
  have place (l : List PortIn) : (s.withInputs l).ustate = s.ustate := rfl
  cases hu : s.ustate <;> simp only [sequence, place, hu]
  case idle => exact absurd hu hi
  case payload => exact absurd hu hp
  case drain => exact absurd hu hd
  case pre => exact same preCycle_ignoresInputs.readsAnswersOnly
  case hold => exact same holdCycle_ignoresInputs.readsAnswersOnly
  case post => exact same postCycle_ignoresInputs.readsAnswersOnly
  case rs => exact same (pinCycle_readsAnswersOnly (.rs s.txf) fun _ _ => rfl)
  case data => exact same (pinCycle_readsAnswersOnly (.data _ _) fun _ _ => rfl)
  case enHi => exact same (pinCycle_readsAnswersOnly (.en true) fun _ _ => rfl)
  case enLo => exact same (pinCycle_readsAnswersOnly (.en false) afterPulse_withInputs)
  case rsp => exact same rspCycle_readsAnswersOnly

/-- Where no word is wanted, two cycles with the same reset and the same answers are the same. -/
theorem step_eq_of_same_answers {c c' : PortIn} {rest : List PortIn} (hi : s.ustate ≠ .idle) (hp : s.ustate ≠ .payload)
    (hd : s.ustate ≠ .drain) (hr : c.rst = c'.rst) (ha : c.pinAck = c'.pinAck) (he : c.pinErr = c'.pinErr)
    (hy : c.rspReady = c'.rspReady) : step (s.withInputs (c :: rest)) = step (s.withInputs (c' :: rest)) := by
  have reset (x : PortIn) (h : x.rst = true) := step_reset (s := s.withInputs (x :: rest)) h
  have busy (x : PortIn) (h : x.rst = false) :=
    step_sequence_of_no_word_wanted (s := s.withInputs (x :: rest)) h hi hp hd
  cases h : c'.rst with
  | true => exact (reset c (hr.trans h)).trans (reset c' h).symm
  | false => exact (busy c (hr.trans h)).trans ((sequence_answers hi hp hd ha he hy).trans (busy c' h).symm)

/-- Settles O23: the word presented is neither a reset nor an answer. -/
theorem aRequestWhileBusyMakesNoDifference : Obligations.ARequestWhileBusyMakesNoDifference :=
  fun _ _ _ _ _ _ _ hi hp hd => step_eq_of_same_answers hi hp hd rfl rfl rfl rfl

/-! ### Runs whose pin operations are answered at once -/

/-- If there is no reset in the next `n` cycles and the pin operations issued in them are answered ok at once, the run
from `s` is in USTATE `u` after them, and not before (R301). -/
def ReachesAtOnce (s : State) (u : UState) (n : Nat) : Prop := answeredAtOnce n s = true → firstIn u n s

variable {u : UState} {n : Nat}

theorem reachesAtOnce_zero (hu : s.ustate = u) : ReachesAtOnce s u 0 := fun _ => firstIn_zero hu

theorem ReachesAtOnce.of_count {m : Nat} (h : ReachesAtOnce s u m) (hn : n = m) : ReachesAtOnce s u n := hn ▸ h

/-- One cycle, and what is reached after it. -/
theorem reachesAtOnce_succ (hu : s.ustate ≠ u)
    (h : s.now.rst = false → (isPinState s.ustate = true → s.now.pinAck = true ∧ s.now.pinErr = false) →
      ∃ t, step s = .next t ∧ ReachesAtOnce t u n) : ReachesAtOnce s u (n + 1) := by
  intro answered
  obtain ⟨t, hs, ht⟩ : ∃ t, step s = .next t ∧ ReachesAtOnce t u n := by
    simp only [answeredAtOnce, Bool.and_eq_true, Bool.or_eq_true, Bool.not_eq_true'] at answered
    obtain ⟨⟨hr, hp⟩, -⟩ := answered
    exact h hr fun hpin => hp.resolve_left (by simp [hpin])
  obtain ⟨-, -, later⟩ := (answeredAtOnce_succ hs).mp answered
  exact firstIn_succ hs hu (ht later)

/-- A delay takes as many cycles as TMR says, and what follows it happens in the last of them (R258). -/
theorem reachesAtOnce_tmr {k : DelayKind} {f : State → Result} : ∀ (m : Nat) {s : State}, s.ustate ≠ u →
    s.tmr = m + 1 →
    (∀ t : State, t.ustate = s.ustate → t.phase = s.phase → t.seqPc = s.seqPc → t.now.rst = false →
      step t = endCycle (delayCycle k f t)) →
    (∀ tr ins, ∃ t, f { s with tmr := 0, trace := tr, inputs := ins } = .next t ∧ ReachesAtOnce t.endCycle u n) →
    ReachesAtOnce s u (n + (m + 1)) := by
  intro m
  induction m with
  | zero =>
    intro s hu ht hs ends
    refine reachesAtOnce_succ hu fun hr _ => ?_
    obtain ⟨t, hf, reached⟩ := ends (delayNoted k s).trace s.inputs
    rw [hs s rfl rfl rfl hr, delayCycle_ends ht.le, delayNoted_eq]
    exact ⟨t.endCycle, congrArg endCycle hf, reached⟩
  | succ m ih =>
    intro s hu ht hs ends
    refine reachesAtOnce_succ hu fun hr _ => ?_
    rw [hs s rfl rfl rfl hr, delayCycle_goes_on (by omega), delayNoted_eq]
    exact ⟨_, rfl, ih hu (congrArg (· - 1) ht) hs ends⟩

/-- A delay just entered takes its ticks (R258, R301). -/
theorem reachesAtOnce_delay {k : DelayKind} {f : State → Result} (hv : ValidParams s.cfg) (hu : s.ustate ≠ u)
    (ht : s.tmr = ticksOf s.cfg k)
    (hs : ∀ t : State, t.ustate = s.ustate → t.phase = s.phase → t.seqPc = s.seqPc → t.now.rst = false →
      step t = endCycle (delayCycle k f t))
    (ends : ∀ tr ins, ∃ t, f { s with tmr := 0, trace := tr, inputs := ins } = .next t ∧ ReachesAtOnce t.endCycle u n) :
    ReachesAtOnce s u (n + ticksOf s.cfg k) := by
  obtain ⟨m, hm⟩ := Nat.exists_eq_add_of_le' (ticksOf_pos hv k)
  rw [hm]
  exact reachesAtOnce_tmr m hu (ht.trans hm) hs ends

/-! ### The cycles of a Transmit and of a Send -/

/-- `t` may be a moment of the Transmit that began in `s`, or of the delay after it: none of the registers that say how
the byte on its way is sent and what follows it has changed (R140). -/
structure SameOperation (s t : State) : Prop where
  cfg : t.cfg = s.cfg
  phase : t.phase = s.phase
  busw : t.busw = s.busw
  seqPc : t.seqPc = s.seqPc
  opc : t.opc = s.opc
  bcnt : t.bcnt = s.bcnt

theorem SameOperation.refl (s : State) : SameOperation s s := ⟨rfl, rfl, rfl, rfl, rfl, rfl⟩

/-- The states in which a Transmit runs (R140). -/
def transmitStates : List UState := [.rs, .data, .enHi, .hold, .enLo]

section
variable {x : State} (hne : u ∉ transmitStates)
include hne

/-- A pin operation takes one cycle (R301; log 1). -/
theorem reachesAtOnce_pin {op : PinOp} {f : State → State} (hp : isPinState x.ustate = true)
    (hs : x.now.rst = false → step x = .next (pinCycle op f x).endCycle)
    (h : ReachesAtOnce (f (x.pinOk op)).endCycle u n) : ReachesAtOnce x u (n + 1) := by
  refine reachesAtOnce_succ ?_ fun hr ha => ⟨_, by rw [hs hr, pinCycle_ok (ha hp).1 (ha hp).2], h⟩
  rintro rfl
  rcases isPinState_cases hp with hu | hu | hu | hu <;> exact hne (hu ▸ by decide)

variable (hx : SameOperation s x)
include hx

theorem reachesAtOnce_rs (hu : x.ustate = .rs)
    (h : ∀ t, SameOperation s t → t.ustate = .data → t.nib = false → ReachesAtOnce t u n) : ReachesAtOnce x u (n + 1) :=
  reachesAtOnce_pin hne (by rw [hu]; rfl) (step_rs · hu)
    (h _ { hx with } rfl rfl)

theorem reachesAtOnce_data (hu : x.ustate = .data)
    (h : ∀ t, SameOperation s t → t.ustate = .enHi → t.nib = x.nib → ReachesAtOnce t u n) : ReachesAtOnce x u (n + 1) :=
  reachesAtOnce_pin hne (by rw [hu]; rfl) (step_data · hu)
    (h _ { hx with } rfl rfl)

theorem reachesAtOnce_enHi (hu : x.ustate = .enHi)
    (h : ∀ t, SameOperation s t → t.ustate = .hold → t.nib = x.nib → t.tmr = ticksOf t.cfg .hold → ReachesAtOnce t u n) :
    ReachesAtOnce x u (n + 1) :=
  reachesAtOnce_pin hne (by rw [hu]; rfl) (step_enHi · hu)
    (h _ { hx with } rfl rfl rfl)

theorem reachesAtOnce_hold (hv : ValidParams s.cfg) (hu : x.ustate = .hold) (ht : x.tmr = ticksOf x.cfg .hold)
    (h : ∀ t, SameOperation s t → t.ustate = .enLo → t.nib = x.nib → ReachesAtOnce t u n) :
    ReachesAtOnce x u (n + ticksOf s.cfg .hold) := by
  rw [← hx.cfg] at hv ⊢
  exact reachesAtOnce_delay (f := fun t => .next { t with ustate := .enLo }) hv
    (fun h => hne (h ▸ hu ▸ by decide)) ht (fun _ hy _ _ hr => step_hold hr (hy.trans hu))
    fun _ _ => ⟨_, rfl, h _ { hx with } rfl rfl⟩

theorem reachesAtOnce_enLo_upper (hu : x.ustate = .enLo) (hb : s.busw = .four) (hn : x.nib = false)
    (h : ∀ t, SameOperation s t → t.ustate = .data → t.nib = true → ReachesAtOnce t u n) :
    ReachesAtOnce x u (n + 1) := by
  refine reachesAtOnce_pin hne (by rw [hu]; rfl) (step_enLo · hu) ?_
  rw [show afterPulse (x.pinOk (.en false)) = _ from if_pos ⟨hx.busw.trans hb, hn⟩]
  exact h _ { hx with } rfl rfl

theorem reachesAtOnce_enLo_last (hu : x.ustate = .enLo) (hb : s.busw = .eight ∨ x.nib = true)
    (h : ∀ t, SameOperation s t → t.ustate = .post → t.tmr = ticksOf t.cfg (postDelay t) → ReachesAtOnce t u n) :
    ReachesAtOnce x u (n + 1) := by
  have last : ¬(x.busw = .four ∧ x.nib = false) := by rcases hb with hb | hb <;> simp [hb, hx.busw]
  refine reachesAtOnce_pin hne (by rw [hu]; rfl) (step_enLo · hu) ?_
  rw [show afterPulse (x.pinOk (.en false)) = _ from if_neg last]
  exact h _ { hx with } rfl rfl

variable (hv : ValidParams s.cfg)
include hv

/-- The data lines and the EN rise take a cycle each and are followed by one hold (R133, R301). -/
theorem reachesAtOnce_raise (hu : x.ustate = .data)
    (h : ∀ t, SameOperation s t → t.ustate = .enLo → t.nib = x.nib → ReachesAtOnce t u n) :
    ReachesAtOnce x u (n + ticksOf s.cfg .hold + 1 + 1) :=
  reachesAtOnce_data hne hx hu fun _ ha hu hna => reachesAtOnce_enHi hne ha hu fun _ hb hu hnb ht =>
    reachesAtOnce_hold hne hb hv hu ht fun _ hc hu hnc => h _ hc hu (hnc.trans (hnb.trans hna))

/-- The transaction that ends a Transmit takes a cycle for each of its pin operations and one hold (R133, R301). -/
theorem reachesAtOnce_xact_last (hu : x.ustate = .data) (hb : s.busw = .eight ∨ x.nib = true)
    (h : ∀ t, SameOperation s t → t.ustate = .post → t.tmr = ticksOf t.cfg (postDelay t) → ReachesAtOnce t u n) :
    ReachesAtOnce x u (n + 1 + ticksOf s.cfg .hold + 1 + 1) :=
  reachesAtOnce_raise hne hx hv hu fun _ ha hu hn => reachesAtOnce_enLo_last hne ha hu (hn ▸ hb) h

/-- A Transmit takes the RS operation and one transaction on the 8-bit bus, two on the 4-bit bus (R141, R301). -/
theorem reachesAtOnce_transmit (hu : x.ustate = .rs)
    (h : ∀ t, SameOperation s t → t.ustate = .post → t.tmr = ticksOf t.cfg (postDelay t) → ReachesAtOnce t u n) :
    ReachesAtOnce x u (n + transmitCycles s.cfg s.busw) := by
  cases hb : s.busw with
  | eight =>
    exact (reachesAtOnce_rs hne hx hu fun _ ha hu _ => reachesAtOnce_xact_last hne ha hv hu (.inl hb) h).of_count
      (by simp only [transmitCycles]; omega)
  | four =>
    exact (reachesAtOnce_rs hne hx hu fun _ ha hu hna => reachesAtOnce_raise hne ha hv hu fun _ hb' hu hnb =>
      reachesAtOnce_enLo_upper hne hb' hu hb (hnb.trans hna) fun _ hc hu hnc =>
        reachesAtOnce_xact_last hne hc hv hu (.inr hnc) h).of_count (by simp only [transmitCycles]; omega)

end

/-- A Send takes its delay more than its Transmit (R138, R301); `AfterSend()` says what follows. -/
theorem reachesAtOnce_send {k : DelayKind} (hv : ValidParams s.cfg) (hne : u ∉ transmitStates) (hpost : u ≠ .post)
    (hu : s.ustate = .rs) (hk : postDelay s = k)
    (h : ∀ t, SameOperation s t → ∃ v, afterSend t = .next v ∧ ReachesAtOnce v.endCycle u n) :
    ReachesAtOnce s u (n + ticksOf s.cfg k + transmitCycles s.cfg s.busw) := by
  refine reachesAtOnce_transmit hne (.refl s) hv hu fun t ht hu htmr => ?_
  rw [← ht.cfg, ← hk, ← postDelay_congr ht.phase ht.seqPc]
  exact reachesAtOnce_delay (f := afterSend) (ht.cfg ▸ hv) (hu ▸ hpost.symm) htmr
    (fun _ hx hp hq hr => by rw [step_post hr (hx.trans hu), postCycle, postDelay_congr hp hq])
    fun _ _ => h _ { ht with }

/-! ### The cycles of an init operation -/

theorem exists_romAt {c : Params} {e : EntryMode} {w : BusWidth} {i : Nat} (h : i < romLen w) :
    ∃ b, romAt c e w i = some b :=
  Option.ne_none_iff_exists'.mp fun hn => (romAt_eq_none_iff.mp hn).not_gt h

/-- The init byte on its way and the `k` bytes that follow it in the ROM are sent, and the response is presented (R163,
R301). -/
theorem reachesAtOnce_initBytes : ∀ (k : Nat) {d : DelayKind} {s : State}, ValidParams s.cfg → s.ustate = .rs →
    s.phase = .initialising → s.seqPc.toNat + 1 + k = romLen s.busw → postDelay s = d →
    ReachesAtOnce s .rsp (k * (ticksOf s.cfg .settle + transmitCycles s.cfg s.busw) + ticksOf s.cfg d +
      transmitCycles s.cfg s.busw) := by
  intro k
  induction k with
  | zero =>
    intro d s hv hu hp hl hd
    rw [Nat.zero_mul]
    refine reachesAtOnce_send hv (by decide) (by decide) hu hd fun t ht => ?_
    have last : t.seqPc.toNat + 1 = romLen t.busw := by rw [ht.seqPc, ht.busw]; exact hl
    exact ⟨_, (if_pos (ht.phase.trans hp)).trans (afterInitByte_last last), reachesAtOnce_zero rfl⟩
  | succ k ih =>
    intro d s hv hu hp hl hd
    refine reachesAtOnce_send hv (by decide) (by decide) hu hd fun t ht => ?_
    rw [← ht.seqPc, ← ht.busw] at hl
    rw [Nat.succ_mul, ← Nat.add_assoc, ← ht.cfg, ← ht.busw]
    obtain ⟨b, next⟩ := exists_romAt (c := t.cfg) (e := t.entry) (w := t.busw) (i := t.seqPc.toNat + 1) (by omega)
    have hpc : (t.seqPc + 1#3).toNat = t.seqPc.toNat + 1 := toNat_add_one_of_lt_romLen (w := t.busw) (by omega)
    have hne : t.seqPc + 1#3 ≠ 0#3 := fun h => by simp [h] at hpc
    refine ⟨_, (if_pos (ht.phase.trans hp)).trans (afterInitByte_next (s := t.noteSent) next), ?_⟩
    refine ih (ht.cfg ▸ hv) rfl (ht.phase.trans hp) ?_ (postDelay_of_seqPc_ne_zero hne)
    exact (congrArg (· + 1 + k) hpc).trans ((Nat.add_right_comm _ _ _).trans hl)

/-- The wait for T_PWR takes its ticks, and then the first init byte is on its way (R163, R258). -/
theorem reachesAtOnce_pre (hv : ValidParams s.cfg) (hne : u ≠ .pre) (hu : s.ustate = .pre)
    (ht : s.tmr = ticksOf s.cfg .pwr) (h : ∀ t, SameOperation s t → t.ustate = .rs → ReachesAtOnce t u n) :
    ReachesAtOnce s u (n + ticksOf s.cfg .pwr) := by
  obtain ⟨b, first⟩ := exists_romAt (c := s.cfg) (e := s.entry) (w := s.busw) (i := 0) (by cases s.busw <;> decide)
  refine reachesAtOnce_delay hv (hu ▸ hne.symm) ht (fun _ hx _ _ hr => step_pre hr (hx.trans hu)) fun tr ins => ?_
  simp only [first]
  exact ⟨_, rfl, h _ ⟨rfl, rfl, rfl, rfl, rfl, rfl⟩ rfl⟩

/-- In POWERING_UP a word with the opcode of an init operation is taken, and T_PWR begins (R161, R162). -/
theorem step_initBegun {o g : Byte} {w : BusWidth} (hr : s.now.rst = false) (hu : s.ustate = .idle)
    (hp : s.phase = .poweringUp) (hov : s.now.opValid = true) (how : s.now.opWord = wordOf o g)
    (ho : o = opInit8 ∧ w = .eight ∨ o = opInit4 ∧ w = .four) : step s = .next (s.initBegun o g w).endCycle := by
  rcases ho with ⟨rfl, rfl⟩ | ⟨rfl, rfl⟩
  · exact (step_presented hr hu hov how (i := .init8 g) rfl rfl).trans
      (congrArg endCycle (startInit_taken .eight hu hp (.inl rfl) g))
  · exact (step_presented hr hu hov how (i := .init4 g) rfl rfl).trans
      (congrArg endCycle (startInit_taken .four hu hp (.inr rfl) g))

/-- To its response an init operation takes the cycle that accepts it, T_PWR, and the sends of the ROM's `k + 1` bytes
(R161, R162, R301). -/
theorem reachesAtOnce_init {o g : Byte} {w : BusWidth} {k : Nat} (hv : ValidParams s.cfg) (hu : s.ustate = .idle)
    (hp : s.phase = .poweringUp) (hov : s.now.opValid = true) (how : s.now.opWord = wordOf o g)
    (ho : o = opInit8 ∧ w = .eight ∨ o = opInit4 ∧ w = .four) (hk : 1 + k = romLen w) :
    ReachesAtOnce s .rsp (k * (ticksOf s.cfg .settle + transmitCycles s.cfg w) + ticksOf s.cfg .fset +
      transmitCycles s.cfg w + ticksOf s.cfg .pwr + 1) := by
  refine reachesAtOnce_succ (by simp [hu]) fun hr _ => ⟨_, step_initBegun hr hu hp hov how ho, ?_⟩
  refine reachesAtOnce_pre (s := (s.initBegun o g w).endCycle) hv (by decide) rfl rfl fun t ht hu => ?_
  have bytes := reachesAtOnce_initBytes k (s := t) (d := .fset) (ht.cfg ▸ hv) hu ht.phase
    (by rw [ht.busw, ht.seqPc]; exact hk) (if_pos ⟨ht.phase, ht.seqPc⟩)
  rw [ht.cfg, ht.busw] at bytes
  exact bytes

/-- In READY a Send ends with the response, or with the next payload word of a burst wanted (R140). -/
theorem afterSend_ready (hp : s.phase = .ready) :
    ∃ t, afterSend s = .next t ∧ t.ustate = if s.opc = opWriteBytes ∧ s.bcnt ≠ 0#8 then .payload else .rsp := by
  unfold afterSend
  rw [if_neg (by simp [hp])]
  split_ifs <;> exact ⟨_, rfl, rfl⟩

/-- A Send in READY takes the settle delay more than its Transmit (R138, R301). -/
theorem reachesAtOnce_sendReady {v : UState} (hv : ValidParams s.cfg) (hu : s.ustate = .rs) (hp : s.phase = .ready)
    (h : v = if s.opc = opWriteBytes ∧ s.bcnt ≠ 0#8 then .payload else .rsp) :
    ReachesAtOnce s v (0 + ticksOf s.cfg .settle + transmitCycles s.cfg s.busw) := by
  obtain ⟨hne, hpost⟩ : v ∉ transmitStates ∧ v ≠ .post := by subst h; split_ifs <;> decide
  refine reachesAtOnce_send hv hne hpost hu (postDelay_of_not_initialising (by simp [hp])) fun t ht => ?_
  obtain ⟨v, hs, hv⟩ := afterSend_ready (ht.phase.trans hp)
  rw [ht.opc, ht.bcnt, ← h] at hv
  exact ⟨v, hs, reachesAtOnce_zero hv⟩

/-- Settles O39: the cycles of a Transmit, of a Send and of an init operation, added up for the bus width. -/
theorem answersAtOnceTakeTheCyclesOfTheRule : Obligations.AnswersAtOnceTakeTheCyclesOfTheRule := by
  intro s n hv answered
  have transmit (hu : s.ustate = .rs) : ReachesAtOnce s .post (0 + transmitCycles s.cfg s.busw) :=
    reachesAtOnce_transmit (by decide) (.refl s) hv hu fun _ _ hu _ => reachesAtOnce_zero hu
  refine ⟨fun hu hb hn => ?_, fun hu hb hn => ?_, fun hu hp hn => ?_, fun g hu hp hov how hn => ?_,
    fun g hu hp hov how hn => ?_⟩
  · exact (transmit hu).of_count (by simp only [hb, transmitCycles]; omega) answered
  · exact (transmit hu).of_count (by simp only [hb, transmitCycles]; omega) answered
  · exact (reachesAtOnce_sendReady hv hu hp rfl).of_count (by omega) answered
  · exact (reachesAtOnce_init hv hu hp hov how (.inl ⟨rfl, rfl⟩) (k := 4) rfl).of_count
      (by simp only [transmitCycles]; omega) answered
  · exact (reachesAtOnce_init hv hu hp hov how (.inr ⟨rfl, rfl⟩) (k := 6) rfl).of_count
      (by simp only [transmitCycles]; omega) answered

end Sys2Proof.Machine
end
